-- ==== Sys2Proof/Word.lean ====
section
/-! DEFINITION. The word types of the machine: a byte (a register, a memory cell, a timer) and a 16-bit word
(an opcode, `pc`, `I`, a stack entry). 00_scope.md R7, R10: every value is unsigned. -/

namespace Sys2Proof

/-- An 8-bit value: a general register, a byte of memory, a timer, an immediate `kk` (R7, R73). -/
abbrev Byte := BitVec 8

/-- A 16-bit value: an opcode, `pc`, `I`, a return address (R7, R70). -/
abbrev Word := BitVec 16

/-- A 12-bit address field `nnn` (R71). -/
abbrev Addr12 := BitVec 12

/-- A register index: a 4-bit field names one of V0..VF directly (R74). -/
abbrev RegIx := Fin 16

end Sys2Proof
end

