-- ==== Sys2Proof/Syntax.lean ====
section
/-! DEFINITION. The instructions: one constructor for each of the 35 rows of spec/opcode_table.json, in the table's
order, with the operand fields of 30_encoding.md R71 and R72. -/

namespace Sys2Proof

/-- One instruction of the base CHIP-8 set. `x` and `y` name registers, `kk` is a byte, `nnn` an address, `n` a row
count. -/
inductive Instr where
  /-- 0nnn SYS addr (R101) -/
  | sys (nnn : Addr12)
  /-- 00E0 CLS (R151) -/
  | cls
  /-- 00EE RET (R102) -/
  | ret
  /-- 1nnn JP addr (R103) -/
  | jp (nnn : Addr12)
  /-- 2nnn CALL addr (R104) -/
  | call (nnn : Addr12)
  /-- 3xkk SE Vx, byte (R105) -/
  | seImm (x : RegIx) (kk : Byte)
  /-- 4xkk SNE Vx, byte (R106) -/
  | sneImm (x : RegIx) (kk : Byte)
  /-- 5xy_ SE Vx, Vy (R107) -/
  | seReg (x y : RegIx)
  /-- 6xkk LD Vx, byte (R121) -/
  | ldImm (x : RegIx) (kk : Byte)
  /-- 7xkk ADD Vx, byte (R122) -/
  | addImm (x : RegIx) (kk : Byte)
  /-- 8xy0 LD Vx, Vy (R123) -/
  | ldReg (x y : RegIx)
  /-- 8xy1 OR Vx, Vy (R124) -/
  | or (x y : RegIx)
  /-- 8xy2 AND Vx, Vy (R125) -/
  | and (x y : RegIx)
  /-- 8xy3 XOR Vx, Vy (R126) -/
  | xor (x y : RegIx)
  /-- 8xy4 ADD Vx, Vy (R127) -/
  | addReg (x y : RegIx)
  /-- 8xy5 SUB Vx, Vy (R128) -/
  | sub (x y : RegIx)
  /-- 8xy6 SHR Vx, Vy (R129) -/
  | shr (x y : RegIx)
  /-- 8xy7 SUBN Vx, Vy (R130) -/
  | subn (x y : RegIx)
  /-- 8xyE SHL Vx, Vy (R131) -/
  | shl (x y : RegIx)
  /-- 9xy_ SNE Vx, Vy (R108) -/
  | sneReg (x y : RegIx)
  /-- Annn LD I, addr (R132) -/
  | ldI (nnn : Addr12)
  /-- Bnnn JP V0, addr (R109) -/
  | jpV0 (nnn : Addr12)
  /-- Cxkk RND Vx, byte (R134) -/
  | rnd (x : RegIx) (kk : Byte)
  /-- Dxyn DRW Vx, Vy, n (R152) -/
  | drw (x y : RegIx) (n : Fin 16)
  /-- Ex9E SKP Vx (R171) -/
  | skp (x : RegIx)
  /-- ExA1 SKNP Vx (R172) -/
  | sknp (x : RegIx)
  /-- Fx07 LD Vx, DT (R174) -/
  | ldXDT (x : RegIx)
  /-- Fx0A LD Vx, K (R173) -/
  | ldK (x : RegIx)
  /-- Fx15 LD DT, Vx (R175) -/
  | ldDT (x : RegIx)
  /-- Fx18 LD ST, Vx (R176) -/
  | ldST (x : RegIx)
  /-- Fx1E ADD I, Vx (R133) -/
  | addI (x : RegIx)
  /-- Fx29 LD F, Vx (R155) -/
  | ldF (x : RegIx)
  /-- Fx33 LD B, Vx (R190) -/
  | ldB (x : RegIx)
  /-- Fx55 LD [I], Vx (R191) -/
  | ldMemX (x : RegIx)
  /-- Fx65 LD Vx, [I] (R192) -/
  | ldXMem (x : RegIx)
  deriving DecidableEq, Repr

end Sys2Proof
end

