-- ==== Sys2Proof/WellFormed.lean ====
section
/-! DEFINITION. Which terms of `Instr` an opcode can stand for. Every operand field has exactly its encoding's width
(R71), so one check is left: a SYS address whose low byte is 0xE0 or 0xEE is not SYS but CLS or RET (R76). -/

namespace Sys2Proof

/-- `nnn` is an address SYS can carry: its low byte is neither key of family 0x0 (R76, R101). -/
def sysAddrOk (nnn : Addr12) : Bool :=
  nnn.extractLsb' 0 8 != 0xE0#8 && nnn.extractLsb' 0 8 != 0xEE#8

/-- The instruction has an encoding. -/
def Instr.wellFormed : Instr → Bool
  | .sys nnn => sysAddrOk nnn
  | .cls | .ret => true
  | .jp _ | .call _ | .ldI _ | .jpV0 _ => true
  | .seImm _ _ | .sneImm _ _ | .ldImm _ _ | .addImm _ _ | .rnd _ _ => true
  | .seReg _ _ | .sneReg _ _ | .ldReg _ _ | .or _ _ | .and _ _ | .xor _ _ => true
  | .addReg _ _ | .sub _ _ | .shr _ _ | .subn _ _ | .shl _ _ => true
  | .drw _ _ _ => true
  | .skp _ | .sknp _ | .ldXDT _ | .ldK _ | .ldDT _ | .ldST _ => true
  | .addI _ | .ldF _ | .ldB _ | .ldMemX _ | .ldXMem _ => true

end Sys2Proof
end

