-- ==== Sys2Proof/Decode.lean ====
section
/-! DEFINITION. The decoder and the encoder (30_encoding.md R70 to R82, R91). Decode is total: every 16-bit word is
one instruction or is rejected as an illegal opcode, and a byte list too short for an opcode is rejected as
truncated. Only the dispatch keys of R75 to R79 are consulted (R80). All bit patterns but 8xy_ and Bnnn are general
knowledge of the spec's (D30; log entry 10). -/

namespace Sys2Proof

/-! ## Fields of an opcode (R71) -/

/-- op[15:12], the leading nibble: the primary dispatch key. -/
def fieldN1 (op : Word) : BitVec 4 := op.extractLsb' 12 4
/-- op[11:8], the first register index. -/
def fieldX (op : Word) : RegIx := (op.extractLsb' 8 4).toFin
/-- op[7:4], the second register index. -/
def fieldY (op : Word) : RegIx := (op.extractLsb' 4 4).toFin
/-- op[3:0], the row count of DRW or the secondary key of family 0x8. -/
def fieldN (op : Word) : BitVec 4 := op.extractLsb' 0 4
/-- op[7:0], the byte immediate or the secondary key of families 0x0, 0xE and 0xF. -/
def fieldKK (op : Word) : Byte := op.extractLsb' 0 8
/-- op[11:0], the 12-bit address. -/
def fieldNNN (op : Word) : Addr12 := op.extractLsb' 0 12

/-- Why a byte list is no instruction. -/
inductive DecodeError where
  /-- fewer than two bytes are left; R70: a decoder always consumes exactly 2 -/
  | truncated
  /-- the opcode's secondary key has no handler (R81) -/
  | illegalOpcode (op : Word)
  deriving DecidableEq, Repr

/-! ## The dispatch tables (R75 to R79) -/

/-- Family 0x0, keyed by the low byte (R76). The SYS words are read as SYS under every policy; `execSys` raises
IllegalOpcode under `sys_policy = fault`, so that the two together are R91's branch (log entry 5). -/
def decodeFamily0 (op : Word) : Except DecodeError Instr :=
  if fieldKK op = 0xE0 then .ok .cls
  else if fieldKK op = 0xEE then .ok .ret
  else .ok (.sys (fieldNNN op))

/-- Family 0x8, keyed by the low nibble (R77). -/
def decodeFamily8 (op : Word) : Except DecodeError Instr :=
  let x := fieldX op
  let y := fieldY op
  if fieldN op = 0x0 then .ok (.ldReg x y)
  else if fieldN op = 0x1 then .ok (.or x y)
  else if fieldN op = 0x2 then .ok (.and x y)
  else if fieldN op = 0x3 then .ok (.xor x y)
  else if fieldN op = 0x4 then .ok (.addReg x y)
  else if fieldN op = 0x5 then .ok (.sub x y)
  else if fieldN op = 0x6 then .ok (.shr x y)
  else if fieldN op = 0x7 then .ok (.subn x y)
  else if fieldN op = 0xE then .ok (.shl x y)
  else .error (.illegalOpcode op)

/-- Family 0xE, keyed by the low byte (R78). -/
def decodeFamilyE (op : Word) : Except DecodeError Instr :=
  if fieldKK op = 0x9E then .ok (.skp (fieldX op))
  else if fieldKK op = 0xA1 then .ok (.sknp (fieldX op))
  else .error (.illegalOpcode op)

/-- Family 0xF, keyed by the low byte (R79). -/
def decodeFamilyF (op : Word) : Except DecodeError Instr :=
  let x := fieldX op
  if fieldKK op = 0x07 then .ok (.ldXDT x)
  else if fieldKK op = 0x0A then .ok (.ldK x)
  else if fieldKK op = 0x15 then .ok (.ldDT x)
  else if fieldKK op = 0x18 then .ok (.ldST x)
  else if fieldKK op = 0x1E then .ok (.addI x)
  else if fieldKK op = 0x29 then .ok (.ldF x)
  else if fieldKK op = 0x33 then .ok (.ldB x)
  else if fieldKK op = 0x55 then .ok (.ldMemX x)
  else if fieldKK op = 0x65 then .ok (.ldXMem x)
  else .error (.illegalOpcode op)

/-- Decode one opcode: the primary table on the leading nibble (R75, R91). -/
def decode (op : Word) : Except DecodeError Instr :=
  if fieldN1 op = 0x0 then decodeFamily0 op
  else if fieldN1 op = 0x1 then .ok (.jp (fieldNNN op))
  else if fieldN1 op = 0x2 then .ok (.call (fieldNNN op))
  else if fieldN1 op = 0x3 then .ok (.seImm (fieldX op) (fieldKK op))
  else if fieldN1 op = 0x4 then .ok (.sneImm (fieldX op) (fieldKK op))
  else if fieldN1 op = 0x5 then .ok (.seReg (fieldX op) (fieldY op))
  else if fieldN1 op = 0x6 then .ok (.ldImm (fieldX op) (fieldKK op))
  else if fieldN1 op = 0x7 then .ok (.addImm (fieldX op) (fieldKK op))
  else if fieldN1 op = 0x8 then decodeFamily8 op
  else if fieldN1 op = 0x9 then .ok (.sneReg (fieldX op) (fieldY op))
  else if fieldN1 op = 0xA then .ok (.ldI (fieldNNN op))
  else if fieldN1 op = 0xB then .ok (.jpV0 (fieldNNN op))
  else if fieldN1 op = 0xC then .ok (.rnd (fieldX op) (fieldKK op))
  else if fieldN1 op = 0xD then .ok (.drw (fieldX op) (fieldY op) (fieldN op).toFin)
  else if fieldN1 op = 0xE then decodeFamilyE op
  else decodeFamilyF op

/-- The opcode of two bytes in fetch order: the first is the high byte (R53; log entry 11). -/
def wordOfBytes (first second : Byte) : Word := first ++ second

/-- Decode the instruction at the head of a byte list; the rest of the list comes back with it (R70). -/
def decodeBytes : List Byte → Except DecodeError (Instr × List Byte)
  | hi :: lo :: rest => (decode (wordOfBytes hi lo)).map (·, rest)
  | [_] | [] => .error .truncated

/-! ## The encoder -/

/-- A word of four nibbles, the high one first. -/
def nibbles (a b c d : BitVec 4) : Word := a ++ b ++ c ++ d
/-- The form `h n n n` (R72). -/
def formNNN (h : BitVec 4) (nnn : Addr12) : Word := h ++ nnn
/-- The forms `h x k k` and `h x s s` (R72). -/
def formXKK (h : BitVec 4) (x : RegIx) (kk : Byte) : Word := h ++ BitVec.ofFin (w := 4) x ++ kk
/-- The forms `h x y n`, `h x y –` and `8 x y s` (R72). -/
def formXYN (h : BitVec 4) (x y : RegIx) (n : BitVec 4) : Word :=
  nibbles h (BitVec.ofFin x) (BitVec.ofFin y) n

/-- The opcode of a well-formed instruction, with every bit the dispatch ignores at 0 (R72, R80; opcode_table.json). -/
def encode : Instr → Word
  | .sys nnn => formNNN 0x0 nnn
  | .cls => 0x00E0
  | .ret => 0x00EE
  | .jp nnn => formNNN 0x1 nnn
  | .call nnn => formNNN 0x2 nnn
  | .seImm x kk => formXKK 0x3 x kk
  | .sneImm x kk => formXKK 0x4 x kk
  | .seReg x y => formXYN 0x5 x y 0x0
  | .ldImm x kk => formXKK 0x6 x kk
  | .addImm x kk => formXKK 0x7 x kk
  | .ldReg x y => formXYN 0x8 x y 0x0
  | .or x y => formXYN 0x8 x y 0x1
  | .and x y => formXYN 0x8 x y 0x2
  | .xor x y => formXYN 0x8 x y 0x3
  | .addReg x y => formXYN 0x8 x y 0x4
  | .sub x y => formXYN 0x8 x y 0x5
  | .shr x y => formXYN 0x8 x y 0x6
  | .subn x y => formXYN 0x8 x y 0x7
  | .shl x y => formXYN 0x8 x y 0xE
  | .sneReg x y => formXYN 0x9 x y 0x0
  | .ldI nnn => formNNN 0xA nnn
  | .jpV0 nnn => formNNN 0xB nnn
  | .rnd x kk => formXKK 0xC x kk
  | .drw x y n => formXYN 0xD x y (BitVec.ofFin n)
  | .skp x => formXKK 0xE x 0x9E
  | .sknp x => formXKK 0xE x 0xA1
  | .ldXDT x => formXKK 0xF x 0x07
  | .ldK x => formXKK 0xF x 0x0A
  | .ldDT x => formXKK 0xF x 0x15
  | .ldST x => formXKK 0xF x 0x18
  | .addI x => formXKK 0xF x 0x1E
  | .ldF x => formXKK 0xF x 0x29
  | .ldB x => formXKK 0xF x 0x33
  | .ldMemX x => formXKK 0xF x 0x55
  | .ldXMem x => formXKK 0xF x 0x65

/-- The bits of an opcode that the dispatch ignores and no operand holds: bits 11..8 of CLS and RET, the low nibble
of 5xy_ and 9xy_, none of any other (R80). -/
def ignoredBits : Instr → Word
  | .cls | .ret => 0x0F00
  | .seReg _ _ | .sneReg _ _ => 0x000F
  | .sys _ | .jp _ | .call _ | .ldI _ | .jpV0 _ => 0
  | .seImm _ _ | .sneImm _ _ | .ldImm _ _ | .addImm _ _ | .rnd _ _ => 0
  | .ldReg _ _ | .or _ _ | .and _ _ | .xor _ _ => 0
  | .addReg _ _ | .sub _ _ | .shr _ _ | .subn _ _ | .shl _ _ => 0
  | .drw _ _ _ => 0
  | .skp _ | .sknp _ | .ldXDT _ | .ldK _ | .ldDT _ | .ldST _ => 0
  | .addI _ | .ldF _ | .ldB _ | .ldMemX _ | .ldXMem _ => 0

/-- The "mask" and "match" of the instruction's row of opcode_table.json: a word `w` is of the row only if
`w &&& mask = match`. -/
def tableRow : Instr → Word × Word
  | .sys _ => (0xF000, 0x0000)
  | .cls => (0xF0FF, 0x00E0)
  | .ret => (0xF0FF, 0x00EE)
  | .jp _ => (0xF000, 0x1000)
  | .call _ => (0xF000, 0x2000)
  | .seImm _ _ => (0xF000, 0x3000)
  | .sneImm _ _ => (0xF000, 0x4000)
  | .seReg _ _ => (0xF000, 0x5000)
  | .ldImm _ _ => (0xF000, 0x6000)
  | .addImm _ _ => (0xF000, 0x7000)
  | .ldReg _ _ => (0xF00F, 0x8000)
  | .or _ _ => (0xF00F, 0x8001)
  | .and _ _ => (0xF00F, 0x8002)
  | .xor _ _ => (0xF00F, 0x8003)
  | .addReg _ _ => (0xF00F, 0x8004)
  | .sub _ _ => (0xF00F, 0x8005)
  | .shr _ _ => (0xF00F, 0x8006)
  | .subn _ _ => (0xF00F, 0x8007)
  | .shl _ _ => (0xF00F, 0x800E)
  | .sneReg _ _ => (0xF000, 0x9000)
  | .ldI _ => (0xF000, 0xA000)
  | .jpV0 _ => (0xF000, 0xB000)
  | .rnd _ _ => (0xF000, 0xC000)
  | .drw _ _ _ => (0xF000, 0xD000)
  | .skp _ => (0xF0FF, 0xE09E)
  | .sknp _ => (0xF0FF, 0xE0A1)
  | .ldXDT _ => (0xF0FF, 0xF007)
  | .ldK _ => (0xF0FF, 0xF00A)
  | .ldDT _ => (0xF0FF, 0xF015)
  | .ldST _ => (0xF0FF, 0xF018)
  | .addI _ => (0xF0FF, 0xF01E)
  | .ldF _ => (0xF0FF, 0xF029)
  | .ldB _ => (0xF0FF, 0xF033)
  | .ldMemX _ => (0xF0FF, 0xF055)
  | .ldXMem _ => (0xF0FF, 0xF065)

/-! ## The table's numbering -/

/-- The two bytes, in fetch order, of the opcode whose bits are `w`: opcode_table.json numbers a row's 16 bits with
bit 0 the least significant, every row is one word long, and bits at or above `nbits` are 0. -/
def tableWordBytes (nbits w : Nat) : List Byte :=
  let op : Word := BitVec.ofNat 16 (w % 2 ^ nbits)
  [op.extractLsb' 8 8, op.extractLsb' 0 8]

/-- What the decoder reads from the instruction whose table bits are `w`; none where it refuses. -/
def decodeTableWord (nbits w : Nat) : Option Instr :=
  match decodeBytes (tableWordBytes nbits w) with
  | .ok (i, _) => some i
  | .error _ => none

end Sys2Proof
end

