-- ==== Sys2Proof/Config.lean ====
section
/-! DEFINITION. What one machine fixes for its life (00_scope.md R8) and the two values the spec leaves open for
good: the random byte of `RND` (R9) and the host-visible byte of an "on" display cell (R8, R32).

A `Config` is carried in `State` (field `config`), because the fixed form of `step` takes nothing but a state; no
instruction and no host operation writes it (R38, log entry 1). So every statement that quantifies over states
quantifies over every configuration, as R8 asks. -/

namespace Sys2Proof

/-- Who decrements DT and ST (R8, R215, R216). -/
inductive TimerCoupling where
  /-- every retired cycle ends with `tick()` (R215; the default) -/
  | perCycle
  /-- `tick()` is a host operation and a cycle never decrements (R216) -/
  | external
  deriving DecidableEq, Repr

/-- What happens to a DRW pixel outside 64×32 (R8, R153). -/
inductive DrawEdge where
  /-- the coordinate is taken modulo 64 or 32 (the default) -/
  | wrap
  /-- the pixel is dropped -/
  | clip
  deriving DecidableEq, Repr

/-- The meaning of 0nnn outside 00E0 and 00EE (R8, R101). -/
inductive SysPolicy where
  /-- raise IllegalOpcode (the default) -/
  | fault
  /-- do nothing -/
  | nop
  deriving DecidableEq, Repr

/-- The configuration record of R8. Its ninth field, ON_SENTINEL, has no default and is the constant
`Config.onSentinel` below. -/
structure Config where
  /-- true: SHR/SHL shift Vy into Vx; false: Vx into Vx -/
  shiftQuirk : Bool
  /-- true: Fx55/Fx65 advance I after the transfer -/
  loadStoreQuirk : Bool
  /-- true: Fx1E writes VF -/
  addIndexOverflowFlag : Bool
  /-- who decrements the timers -/
  timerCoupling : TimerCoupling
  /-- DRW pixels outside the display -/
  drawEdge : DrawEdge
  /-- meaning of the SYS words -/
  sysPolicy : SysPolicy
  /-- FONT_BASE: the address of glyph 0 -/
  fontBase : Addr12
  /-- FONT_DATA: 16 glyphs of 5 bytes -/
  fontData : Vector Byte 80
  deriving DecidableEq, Repr

/-- The conventional font, glyph by glyph (R36; PRESUMED by the spec itself: "[from general knowledge, not in
source]", log entry 3). -/
def Config.defaultFont : Vector Byte 80 := #v[
  0xF0, 0x90, 0x90, 0x90, 0xF0,
  0x20, 0x60, 0x20, 0x20, 0x70,
  0xF0, 0x10, 0xF0, 0x80, 0xF0,
  0xF0, 0x10, 0xF0, 0x10, 0xF0,
  0x90, 0x90, 0xF0, 0x10, 0x10,
  0xF0, 0x80, 0xF0, 0x10, 0xF0,
  0xF0, 0x80, 0xF0, 0x90, 0xF0,
  0xF0, 0x10, 0x20, 0x40, 0x40,
  0xF0, 0x90, 0xF0, 0x90, 0xF0,
  0xF0, 0x90, 0xF0, 0x10, 0xF0,
  0xF0, 0x90, 0xF0, 0x90, 0x90,
  0xE0, 0x90, 0xE0, 0x90, 0xE0,
  0xF0, 0x80, 0x80, 0x80, 0xF0,
  0xE0, 0x90, 0x90, 0x90, 0xE0,
  0xF0, 0x80, 0xF0, 0x80, 0xF0,
  0xF0, 0x80, 0xF0, 0x80, 0x80]

/-- The configuration with every field at the default R8 states. -/
def Config.default : Config where
  shiftQuirk := false
  loadStoreQuirk := false
  addIndexOverflowFlag := false
  timerCoupling := .perCycle
  drawEdge := .wrap
  sysPolicy := .fault
  fontBase := 0x050
  fontData := Config.defaultFont

/-- FREE VALUE (R9; log entry 2). The byte the RNG oracle hands to the k-th execution of `RND`. Nothing constrains
it: no law links two draws. `State.draws` is the plain counter it is applied to. -/
opaque Config.draw : Nat → Byte

/-- FREE VALUE (R8, R32; log entry 4). ON_SENTINEL, the byte the host sees for an "on" display cell: OPEN in the
spec. No instruction depends on it. -/
opaque Config.onSentinel : Byte

end Sys2Proof
end

