-- ==== Sys2Proof/Machine/State.lean ====
section
/-! DEFINITION. The state of the core as plain data (10_state.md R20), the reasons a step can stop, and the state
after reset (R42). -/

namespace Sys2Proof.Machine

open Sys2Proof

/-- The five fault kinds of the core (60_exceptions.md R200). They are the hardware's own faults: one is TAKEN, by
writing the fault record into the state (R206, R210), and the step answers a next state. -/
inductive FaultKind where
  /-- a dispatch miss, and SYS under `sys_policy = fault` (R201) -/
  | illegalOpcode
  /-- CALL with sp = 16 (R202) -/
  | stackOverflow
  /-- RET with sp = 0 (R203) -/
  | stackUnderflow
  /-- a fetch or data access above 0xFFF (R204) -/
  | memoryOutOfRange
  /-- SKP or SKNP with Vx > 0xF (R205) -/
  | badKeyIndex
  deriving DecidableEq, Repr

/-- The fault record (R37). Its `code` is a function of `kind` (`FaultRecord.code` in Ops.lean), so it is not stored
a second time (log entry 16). -/
structure FaultRecord where
  kind : FaultKind
  /-- the fetched opcode, or 0 when the fetch itself faulted -/
  opcode : Word
  /-- `pc0`, the address of the faulting instruction -/
  pc : Word
  /-- the kind's extra value: the opcode, `sp`, the first out-of-range address, or Vx -/
  info : Nat
  deriving DecidableEq, Repr

/-- Memory: (address, byte) pairs in the canonical form `Memory.wf` of Ops.lean. An address not listed reads as its
reset contents (R35, R42). -/
abbrev Memory := List Host.Cell

/-- The state of the core (R20), with the machine's configuration (R8) and the model's own draw counter. -/
structure State where
  /-- the machine's configuration: a parameter of the step that no instruction writes (R8, R38; log entry 1) -/
  config : Config
  /-- V0..VF (R21); VF is the flag (R39) -/
  v : Vector Byte 16
  /-- I, the index register (R24, R25) -/
  i : Word
  /-- the program counter (R26) -/
  pc : Word
  /-- the stack pointer: how many entries are in use, 0..16 (R28) -/
  sp : Fin 17
  /-- the 16 return addresses (R28) -/
  stack : Vector Word 16
  /-- DT, the delay timer (R30) -/
  dt : Byte
  /-- ST, the sound timer (R31) -/
  st : Byte
  /-- the 4096 bytes of memory (R35) -/
  mem : Memory
  /-- the display: 32 rows of 64 cells, `disp[y][x]`, true for "on" (R32) -/
  disp : Vector (Vector Bool 64) 32
  /-- the key latch: true for "pressed" (R33) -/
  key : Vector Bool 16
  /-- the opcode register (R34) -/
  opcode : Word
  /-- the fault record; `some` halts the core (R37, R207) -/
  fault : Option FaultRecord
  /-- MODEL's own field: how many random bytes have been drawn; the free value `Config.draw` is applied to it
  (R9; log entry 2) -/
  draws : Nat
  deriving DecidableEq, Repr

/-- Reasons a step stops with a fault of the MODEL. There is none: the spec describes the entry of every fault of the
hardware (R206, R210), so each is taken as a next state (log entry 6). Safe: nothing can raise what has no
constructor. -/
inductive Fault where
  deriving DecidableEq, Repr

/-- Reasons a step is refused. -/
inductive Refusal where
  /-- An instruction without a meaning yet, by its mnemonic. Raised by `exec`'s refused arms only (there is none
  left). Safe: no step is claimed. -/
  | notModelled (mnemonic : String)
  deriving DecidableEq, Repr

/-- The state of a machine constructed with configuration `c` (R42, R242): memory at its reset contents (zero and the
font), everything else zero, off, released or absent, and pc = 0x200. -/
def State.construct (c : Config) : State where
  config := c
  v := Vector.replicate 16 0
  i := 0
  pc := 0x200
  sp := 0
  stack := Vector.replicate 16 0
  dt := 0
  st := 0
  mem := []
  disp := Vector.replicate 32 (Vector.replicate 64 false)
  key := Vector.replicate 16 false
  opcode := 0
  fault := none
  draws := 0

/-- The machine right after reset, with the default configuration (R8, R240). -/
def State.reset : State := State.construct Config.default

end Sys2Proof.Machine
end

