-- ==== Sys2Proof/Machine/Ops.lean ====
section
/-! DEFINITION. The named operations over memory and registers, taking a fault and leaving the halted state, the
timer tick, and the two ends of a cycle (fetch and retirement). -/

namespace Sys2Proof.Machine

open Sys2Proof

/-! ## Memory (20_memory.md) -/

/-- What an address holds after reset, and so what an address that the memory does not list reads as: the font at
FONT_BASE..FONT_BASE+79, zero elsewhere (R36, R42; log entry 9). -/
def resetByte (c : Config) (a : Nat) : Byte :=
  if h : c.fontBase.toNat ≤ a ∧ a < c.fontBase.toNat + 80 then
    c.fontData[a - c.fontBase.toNat]'(by omega)
  else 0

/-- The byte at `a` (R50). The range check is `firstOutOfRange`'s. -/
def Memory.read (c : Config) : Memory → Nat → Byte
  | [], a => resetByte c a
  | (b, w) :: rest, a => if a = b then w else Memory.read c rest a

/-- Put a cell at its place in rising order. -/
def Memory.insertCell (a : Nat) (w : Byte) : Memory → Memory
  | [] => [(a, w)]
  | (b, u) :: rest =>
    if a < b then (a, w) :: (b, u) :: rest else (b, u) :: Memory.insertCell a w rest

/-- Write one byte: whatever the list holds for `a` goes, and the new cell is listed only if it differs from what `a`
reads as unlisted. -/
def Memory.write (c : Config) (m : Memory) (a : Nat) (w : Byte) : Memory :=
  let others := m.filter (fun cell => cell.1 != a)
  if w = resetByte c a then others else Memory.insertCell a w others

/-- Write bytes at increasing addresses from `a` (R52, R193). -/
def Memory.writeBytes (c : Config) : Memory → Nat → List Byte → Memory
  | m, _, [] => m
  | m, a, w :: ws => Memory.writeBytes c (Memory.write c m a w) (a + 1) ws

/-- The canonical form: addresses strictly rising and inside the 4096 bytes, and no cell equal to what its address
reads as unlisted. -/
abbrev Memory.wf (c : Config) (m : Memory) : Prop :=
  m.Pairwise (fun p q => p.1 < q.1) ∧ ∀ cell ∈ m, cell.1 < 4096 ∧ cell.2 ≠ resetByte c cell.1

/-- The first address above 0xFFF among the `n` addresses from `a`, in increasing order; none if all exist (R56). -/
def firstOutOfRange (a n : Nat) : Option Nat :=
  if n = 0 ∨ a + n ≤ 0x1000 then none else some (max a 0x1000)

/-- The byte at address `a` of the machine's memory. -/
def State.readByte (s : State) (a : Nat) : Byte := Memory.read s.config s.mem a

/-- The `n` bytes from address `a` (R52). -/
def State.readBytes (s : State) (a n : Nat) : List Byte :=
  (List.range n).map fun k => s.readByte (a + k)

/-- Store bytes from address `a` on (R52). -/
def State.writeBytes (s : State) (a : Nat) (ws : List Byte) : State :=
  { s with mem := Memory.writeBytes s.config s.mem a ws }

/-! ## Registers -/

/-- `V[x]` (R11, R21). -/
def State.getV (s : State) (x : RegIx) : Byte := s.v[x]

/-- `V[x] <- b` (R11, R21): no register is hard-wired. -/
def State.setV (s : State) (x : RegIx) (b : Byte) : State := { s with v := s.v.set x.val b x.isLt }

/-- `I <- w` (R25): any 16-bit value, no range check. -/
def State.setI (s : State) (w : Word) : State := { s with i := w }

/-- `pc <- w` (R26, R27): any 16-bit value, no alignment and no range check. -/
def State.setPc (s : State) (w : Word) : State := { s with pc := w }

/-- `DT <- b` (R30). -/
def State.setDT (s : State) (b : Byte) : State := { s with dt := b }

/-- `ST <- b` (R31). -/
def State.setST (s : State) (b : Byte) : State := { s with st := b }

/-- A skip: `pc <- pc + 2` modulo 65536 when the condition holds (R26, R100). -/
def State.skipIf (s : State) (cond : Bool) : State := if cond then s.setPc (s.pc + 2) else s

/-- `draw()`: the next byte of the RNG oracle, and the state with the draw counted (R9, R11). -/
def State.drawByte (s : State) : Byte × State := (Config.draw s.draws, { s with draws := s.draws + 1 })

/-! ## The display (R32, R150) -/

/-- `disp[x, y]`. -/
def State.cell (s : State) (x : Fin 64) (y : Fin 32) : Bool := (s.disp[y])[x]

/-- The display with cell (x, y) toggled. -/
def toggleCell (d : Vector (Vector Bool 64) 32) (x : Fin 64) (y : Fin 32) : Vector (Vector Bool 64) 32 :=
  d.set y.val ((d[y]).set x.val (!(d[y])[x]) x.isLt) y.isLt

/-- The display with every cell off. -/
def blankDisplay : Vector (Vector Bool 64) 32 := Vector.replicate 32 (Vector.replicate 64 false)

/-! ## The key latch (R33) -/

/-- `key[k]`. -/
def State.keyDown (s : State) (k : Fin 16) : Bool := s.key[k]

/-- The least k with `key[k] = true` (R173). -/
def State.lowestKey (s : State) : Option (Fin 16) := (List.finRange 16).find? fun k => s.keyDown k

/-! ## Faults: taking one, and leaving the halted state (60_exceptions.md) -/

/-- The numeric code of a fault kind (R200; log entry 16). -/
def FaultKind.code : FaultKind → Nat
  | .illegalOpcode => 1
  | .stackOverflow => 2
  | .stackUnderflow => 3
  | .memoryOutOfRange => 4
  | .badKeyIndex => 5

/-- The record's `code` field (R37). -/
def FaultRecord.code (r : FaultRecord) : Nat := r.kind.code

/-- TRAP ENTRY (R210): the fault record is saved in `fault` and nothing else changes. There is no vector, no handler
and no mode: control goes to the host, which sees `fault`. -/
def State.takeFault (s : State) (kind : FaultKind) (opcode pc : Word) (info : Nat) : State :=
  { s with fault := some { kind, opcode, pc, info } }

/-- `raise E(info)` inside an instruction (R11). The instruction runs after `opcode` was set and pc advanced, so the
fetched word is `s.opcode` and `pc0` is `s.pc - 2`. Undoing those two is `State.endCycle`'s, with every other write of
the cycle. -/
def State.raise (s : State) (kind : FaultKind) (info : Nat) : State :=
  s.takeFault kind s.opcode (s.pc - 2) info

/-- LEAVING THE HALTED STATE: `initialize()` (R207, R211, R241), the only operation that clears `fault`. Everything
goes to its reset value but the key latch; the configuration (R38) and the count of random bytes already drawn
(log entry 2) stay. -/
def State.reinit (s : State) : State :=
  { State.construct s.config with key := s.key, draws := s.draws }

/-- The core is halted (R40, R207). -/
def State.halted (s : State) : Bool := s.fault.isSome

/-! ## The call stack (R28, R29) -/

/-- `push(v)`: StackOverflow(sp) with 16 entries in use, checked before any write. -/
def State.push (s : State) (w : Word) : Option State :=
  if h : s.sp.val < 16 then
    some { s with stack := s.stack.set s.sp.val w h, sp := ⟨s.sp.val + 1, by omega⟩ }
  else none

/-- `pop()`: StackUnderflow(sp) with no entry in use, checked before any write; the popped entry keeps its value. -/
def State.pop (s : State) : Option (Word × State) :=
  if h : 0 < s.sp.val then
    some (s.stack[s.sp.val - 1]'(by omega), { s with sp := ⟨s.sp.val - 1, by omega⟩ })
  else none

/-! ## Timers (R214) -/

/-- One decrement, saturating at 0. -/
def decTimer (b : Byte) : Byte := if b = 0 then 0 else b - 1

/-- `tick()`: both timers fall by 1 unless 0 (R214). -/
def State.tick (s : State) : State := { s with dt := decTimer s.dt, st := decTimer s.st }

/-! ## The two ends of a cycle (30_encoding.md R83 to R88) -/

/-- Fetch the opcode at pc, or give the first out-of-range address (R53, R56, R83). -/
def State.fetch (s : State) : Except Nat Word :=
  match firstOutOfRange s.pc.toNat 2 with
  | some a => .error a
  | none => .ok (wordOfBytes (s.readByte s.pc.toNat) (s.readByte (s.pc.toNat + 1)))

/-- After the fetch and before dispatch: the opcode register takes the word and pc advances by 2 (R83, R84). -/
def State.beginExecute (s : State) (op : Word) : State := { s with opcode := op, pc := s.pc + 2 }

/-- The end of a cycle that began in `before` and whose instruction answered `after`. A fault undoes the whole cycle
but for the record (R88, R206); otherwise the cycle retires, and ends with a tick under `per_cycle` (R86). -/
def State.endCycle (before after : State) : State :=
  match after.fault with
  | some r => { before with fault := some r }
  | none =>
    match after.config.timerCoupling with
    | .perCycle => after.tick
    | .external => after

/-- A cycle whose fetch is out of range at address `a` (R83, R208): opcode 0 in the record. -/
def State.fetchFault (s : State) (a : Nat) : State := s.takeFault .memoryOutOfRange 0 s.pc a

/-- A cycle whose opcode has no handler (R81, R201). -/
def State.illegalOpcode (s : State) (op : Word) : State :=
  s.endCycle ((s.beginExecute op).raise .illegalOpcode op.toNat)

/-- Store bytes where the next fetch reads them, so far as those addresses exist (the host's word for a loaded
program; log entry 7). -/
def State.placeAtPc (s : State) (ws : List Byte) : State :=
  s.writeBytes s.pc.toNat (ws.take (0x1000 - s.pc.toNat))

end Sys2Proof.Machine
end

