-- ==== Sys2Proof/Machine/Operands.lean ====
section
/-! DEFINITION. The operand forms: how an instruction's fields become values (30_encoding.md R72 to R74 and the
instruction rules). Register operands are read by `State.getV`; an immediate `kk` is used as it stands (R73). -/

namespace Sys2Proof.Machine

open Sys2Proof

/-- A 12-bit address field, zero-extended to 16 bits (R73). -/
def addrOperand (nnn : Addr12) : Word := nnn.setWidth 16

/-- A byte, zero-extended to 16 bits: the addend of JP V0 and of ADD I (R109, R133). -/
def byteOperand (b : Byte) : Word := b.setWidth 16

/-- The source of SHR and SHL: Vy under the shift quirk, else Vx (R129, R131). -/
def State.shiftSource (s : State) (x y : RegIx) : Byte :=
  if s.config.shiftQuirk then s.getV y else s.getV x

/-- The key a byte names; none above 0xF (R170). -/
def keyOperand (b : Byte) : Option (Fin 16) := if h : b.toNat < 16 then some ⟨b.toNat, h⟩ else none

/-- The target of JP V0: the mask on `nnn` applies before the addition, and the sum is not masked (R109). -/
def State.indexedTarget (s : State) (nnn : Addr12) : Word := addrOperand nnn + byteOperand (s.getV 0)

/-- `I` as an address (R24). -/
def State.base (s : State) : Nat := s.i.toNat

/-- The check of an instruction that accesses the `n` bytes from I: the first out-of-range address (R56, R193). -/
def State.blockFault (s : State) (n : Nat) : Option Nat := firstOutOfRange s.base n

/-- What I becomes after a block transfer of V0..Vx: `I + x + 1` modulo 65536 under the quirk, else I (R191, R192; log entry
13). -/
def State.indexAfterTransfer (s : State) (x : RegIx) : Word :=
  if s.config.loadStoreQuirk then s.i + BitVec.ofNat 16 (x.val + 1) else s.i

/-- V0..Vx in order: the bytes Fx55 stores (R74, R191). -/
def State.regsUpTo (s : State) (x : RegIx) : List Byte := s.v.toList.take (x.val + 1)

/-- V0..VF with V0..Vx replaced by the bytes from I (R192). -/
def State.regsFromMemory (s : State) (x : RegIx) : Vector Byte 16 :=
  Vector.ofFn fun k => if k ≤ x then s.readByte (s.base + k.val) else s.getV k

/-- The hundreds, tens and ones of a byte (R190). -/
def bcdDigits (b : Byte) : List Byte := [b / 100, (b / 10) % 10, b % 10]

/-- The address of the glyph of digit `b`: FONT_BASE + 5·b, with `b` not masked (R155). -/
def State.glyphAddress (s : State) (b : Byte) : Word :=
  BitVec.ofNat 16 (s.config.fontBase.toNat + 5 * b.toNat)

/-- The column of a DRW anchor: Vx modulo 64 (R152). -/
def State.anchorX (s : State) (x : RegIx) : Nat := (s.getV x).toNat % 64

/-- The row of a DRW anchor: Vy modulo 32 (R152). -/
def State.anchorY (s : State) (y : RegIx) : Nat := (s.getV y).toNat % 32

/-- `place(px, py)`: the cell of a pixel, or none where it is clipped (R153). -/
def place (edge : DrawEdge) (px py : Nat) : Option (Fin 64 × Fin 32) :=
  match edge with
  | .wrap => some (Fin.ofNat 64 px, Fin.ofNat 32 py)
  | .clip => if h : px < 64 ∧ py < 32 then some (⟨px, h.1⟩, ⟨py, h.2⟩) else none

/-- The cells one sprite row toggles, left to right: bit 7 − c of the byte is column x0 + c (R153; log
entry 12). -/
def rowCells (edge : DrawEdge) (x0 py : Nat) (row : Byte) : List (Fin 64 × Fin 32) :=
  (List.range 8).filterMap fun c => if row.getLsbD (7 - c) then place edge (x0 + c) py else none

/-- The cells a sprite toggles, row by row from row y0 (R152). -/
def spriteCells (edge : DrawEdge) (x0 : Nat) : Nat → List Byte → List (Fin 64 × Fin 32)
  | _, [] => []
  | y0, row :: rows => rowCells edge x0 y0 row ++ spriteCells edge x0 (y0 + 1) rows

end Sys2Proof.Machine
end

