-- ==== Sys2Proof/Machine/Flags.lean ====
section
/-! DEFINITION. The one flag, VF, and every rule that computes it (10_state.md R39). A flag is computed from the
operands as read at the start of the instruction and written after the result (R22, R120). -/

namespace Sys2Proof.Machine

open Sys2Proof

/-- The index of VF. -/
def VF : RegIx := 15

/-- A flag as VF holds it: 1 or 0 (R39). -/
def flagByte (b : Bool) : Byte := if b then 1 else 0

/-- `V[0xF] <- flag` (R39). -/
def State.setFlag (s : State) (b : Bool) : State := s.setV VF (flagByte b)

/-- The result register first, VF last: where the destination is VF, it ends with the flag (R22, R120; log
entry 14). -/
def State.setResultThenFlag (s : State) (x : RegIx) (result : Byte) (flag : Bool) : State :=
  (s.setV x result).setFlag flag

/-- Carry: the 8-bit sum overflows (R127). -/
def carryFlag (a b : Byte) : Bool := decide (a.toNat + b.toNat > 0xFF)

/-- No borrow: minuend ≥ subtrahend (R128, R130). -/
def noBorrowFlag (minuend subtrahend : Byte) : Bool := decide (minuend.toNat ≥ subtrahend.toNat)

/-- The bit SHR shifts out: bit 0 of the source (R129). -/
def shiftedOutRight (src : Byte) : Bool := src.getLsbD 0

/-- The bit SHL shifts out: bit 7 of the source (R131). -/
def shiftedOutLeft (src : Byte) : Bool := src.getLsbD 7

/-- I + Vx leaves the valid range 0..0xFFF (R133; log entry 13). -/
def indexOverflowFlag (i : Word) (b : Byte) : Bool := decide (i.toNat + b.toNat > 0xFFF)

/-- One XOR of a sprite pixel: the cell toggles, and the collision flag is set if the cell was on (R152, R154). -/
def xorPixel (acc : Vector (Vector Bool 64) 32 × Bool) (p : Fin 64 × Fin 32) :
    Vector (Vector Bool 64) 32 × Bool :=
  (toggleCell acc.1 p.1 p.2, acc.2 || (acc.1[p.2])[p.1])

/-- The display and the collision flag after a list of pixels, from a cleared flag (R152, R154). -/
def drawPixels (d : Vector (Vector Bool 64) 32) (cells : List (Fin 64 × Fin 32)) :
    Vector (Vector Bool 64) 32 × Bool :=
  cells.foldl xorPixel (d, false)

end Sys2Proof.Machine
end

