-- ==== Sys2Proof/Machine/ControlFlow.lean ====
section
/-! DEFINITION. The control flow instructions (40_control_flow.md R100 to R109). Every meaning runs after the cycle
has set the opcode register and advanced pc (00_scope.md R13): it sees `pc = pc0 + 2`. -/

namespace Sys2Proof.Machine

open Sys2Proof Host

/-- SYS addr (R101): IllegalOpcode(opcode) under `sys_policy = fault`, nothing under `nop`. -/
def execSys (_nnn : Addr12) (s : State) : Outcome State Fault Refusal :=
  match s.config.sysPolicy with
  | .fault => .next (s.raise .illegalOpcode s.opcode.toNat)
  | .nop => .next s

/-- RET (R102): pop into pc, or StackUnderflow(sp). -/
def execRet (s : State) : Outcome State Fault Refusal :=
  match s.pop with
  | some (w, t) => .next (t.setPc w)
  | none => .next (s.raise .stackUnderflow s.sp.val)

/-- JP addr (R103). -/
def execJp (nnn : Addr12) (s : State) : Outcome State Fault Refusal :=
  .next (s.setPc (addrOperand nnn))

/-- CALL addr (R104): push the next instruction's address and jump, or StackOverflow(sp). -/
def execCall (nnn : Addr12) (s : State) : Outcome State Fault Refusal :=
  match s.push s.pc with
  | some t => .next (t.setPc (addrOperand nnn))
  | none => .next (s.raise .stackOverflow s.sp.val)

/-- SE Vx, byte (R105). -/
def execSeImm (x : RegIx) (kk : Byte) (s : State) : Outcome State Fault Refusal :=
  .next (s.skipIf (s.getV x == kk))

/-- SNE Vx, byte (R106). -/
def execSneImm (x : RegIx) (kk : Byte) (s : State) : Outcome State Fault Refusal :=
  .next (s.skipIf (s.getV x != kk))

/-- SE Vx, Vy (R107). -/
def execSeReg (x y : RegIx) (s : State) : Outcome State Fault Refusal :=
  .next (s.skipIf (s.getV x == s.getV y))

/-- SNE Vx, Vy (R108). -/
def execSneReg (x y : RegIx) (s : State) : Outcome State Fault Refusal :=
  .next (s.skipIf (s.getV x != s.getV y))

/-- JP V0, addr (R109). -/
def execJpV0 (nnn : Addr12) (s : State) : Outcome State Fault Refusal :=
  .next (s.setPc (s.indexedTarget nnn))

end Sys2Proof.Machine
end

