-- ==== Sys2Proof/Machine/Display.lean ====
section
/-! DEFINITION. The display instructions (42_display.md R150 to R155). -/

namespace Sys2Proof.Machine

open Sys2Proof Host

/-- CLS (R151). -/
def execCls (s : State) : Outcome State Fault Refusal :=
  .next { s with disp := blankDisplay }

/-- DRW Vx, Vy, n (R152 to R154): every sprite byte is read before anything is written; VF is the collision flag and
the last write. -/
def execDrw (x y : RegIx) (n : Fin 16) (s : State) : Outcome State Fault Refusal :=
  match s.blockFault n.val with
  | some a => .next (s.raise .memoryOutOfRange a)
  | none =>
    let rows := s.readBytes s.base n.val
    let drawn := drawPixels s.disp (spriteCells s.config.drawEdge (s.anchorX x) (s.anchorY y) rows)
    .next ({ s with disp := drawn.1 }.setFlag drawn.2)

/-- LD F, Vx (R155). -/
def execLdF (x : RegIx) (s : State) : Outcome State Fault Refusal :=
  .next (s.setI (s.glyphAddress (s.getV x)))

end Sys2Proof.Machine
end

