-- ==== Sys2Proof/Machine/KeysTimers.lean ====
section
/-! DEFINITION. The key and timer instructions (43_keys_timers.md R170 to R176). -/

namespace Sys2Proof.Machine

open Sys2Proof Host

/-- SKP Vx (R171): skip if the key is down, or BadKeyIndex(Vx). -/
def execSkp (x : RegIx) (s : State) : Outcome State Fault Refusal :=
  match keyOperand (s.getV x) with
  | some k => .next (s.skipIf (s.keyDown k))
  | none => .next (s.raise .badKeyIndex (s.getV x).toNat)

/-- SKNP Vx (R172): skip if the key is up, or BadKeyIndex(Vx). -/
def execSknp (x : RegIx) (s : State) : Outcome State Fault Refusal :=
  match keyOperand (s.getV x) with
  | some k => .next (s.skipIf (!s.keyDown k))
  | none => .next (s.raise .badKeyIndex (s.getV x).toNat)

/-- LD Vx, DT (R174). -/
def execLdXDT (x : RegIx) (s : State) : Outcome State Fault Refusal :=
  .next (s.setV x s.dt)

/-- LD Vx, K (R173): the lowest pressed key, or pc back to `pc0` so that the instruction runs again. -/
def execLdK (x : RegIx) (s : State) : Outcome State Fault Refusal :=
  match s.lowestKey with
  | some k => .next (s.setV x (BitVec.ofNat 8 k.val))
  | none => .next (s.setPc (s.pc - 2))

/-- LD DT, Vx (R175). -/
def execLdDT (x : RegIx) (s : State) : Outcome State Fault Refusal :=
  .next (s.setDT (s.getV x))

/-- LD ST, Vx (R176). -/
def execLdST (x : RegIx) (s : State) : Outcome State Fault Refusal :=
  .next (s.setST (s.getV x))

end Sys2Proof.Machine
end

