-- ==== Sys2Proof/Machine/LoadArith.lean ====
section
/-! DEFINITION. The load and arithmetic instructions (41_load_arith.md R120 to R134). Every operand is read from the
state the instruction starts in (00_scope.md R12). -/

namespace Sys2Proof.Machine

open Sys2Proof Host

/-- LD Vx, byte (R121). -/
def execLdImm (x : RegIx) (kk : Byte) (s : State) : Outcome State Fault Refusal :=
  .next (s.setV x kk)

/-- ADD Vx, byte (R122): no flag. -/
def execAddImm (x : RegIx) (kk : Byte) (s : State) : Outcome State Fault Refusal :=
  .next (s.setV x (s.getV x + kk))

/-- LD Vx, Vy (R123). -/
def execLdReg (x y : RegIx) (s : State) : Outcome State Fault Refusal :=
  .next (s.setV x (s.getV y))

/-- OR Vx, Vy (R124): no flag. -/
def execOr (x y : RegIx) (s : State) : Outcome State Fault Refusal :=
  .next (s.setV x (s.getV x ||| s.getV y))

/-- AND Vx, Vy (R125): no flag. -/
def execAnd (x y : RegIx) (s : State) : Outcome State Fault Refusal :=
  .next (s.setV x (s.getV x &&& s.getV y))

/-- XOR Vx, Vy (R126): no flag. -/
def execXor (x y : RegIx) (s : State) : Outcome State Fault Refusal :=
  .next (s.setV x (s.getV x ^^^ s.getV y))

/-- ADD Vx, Vy (R127): VF is the carry. -/
def execAddReg (x y : RegIx) (s : State) : Outcome State Fault Refusal :=
  .next (s.setResultThenFlag x (s.getV x + s.getV y) (carryFlag (s.getV x) (s.getV y)))

/-- SUB Vx, Vy (R128): VF is no-borrow. -/
def execSub (x y : RegIx) (s : State) : Outcome State Fault Refusal :=
  .next (s.setResultThenFlag x (s.getV x - s.getV y) (noBorrowFlag (s.getV x) (s.getV y)))

/-- SHR Vx, Vy (R129): VF is the bit shifted out. -/
def execShr (x y : RegIx) (s : State) : Outcome State Fault Refusal :=
  .next (s.setResultThenFlag x (s.shiftSource x y >>> 1) (shiftedOutRight (s.shiftSource x y)))

/-- SUBN Vx, Vy (R130): Vy − Vx, VF is no-borrow. -/
def execSubn (x y : RegIx) (s : State) : Outcome State Fault Refusal :=
  .next (s.setResultThenFlag x (s.getV y - s.getV x) (noBorrowFlag (s.getV y) (s.getV x)))

/-- SHL Vx, Vy (R131): VF is the bit shifted out. -/
def execShl (x y : RegIx) (s : State) : Outcome State Fault Refusal :=
  .next (s.setResultThenFlag x (s.shiftSource x y <<< 1) (shiftedOutLeft (s.shiftSource x y)))

/-- LD I, addr (R132). -/
def execLdI (nnn : Addr12) (s : State) : Outcome State Fault Refusal :=
  .next (s.setI (addrOperand nnn))

/-- ADD I, Vx (R133): modulo 65536; VF only under `add_index_overflow_flag`. -/
def execAddI (x : RegIx) (s : State) : Outcome State Fault Refusal :=
  let t := s.setI (s.i + byteOperand (s.getV x))
  .next (if s.config.addIndexOverflowFlag then t.setFlag (indexOverflowFlag s.i (s.getV x)) else t)

/-- RND Vx, byte (R134): a free byte AND kk (R9; log entry 2). -/
def execRnd (x : RegIx) (kk : Byte) (s : State) : Outcome State Fault Refusal :=
  let drawn := s.drawByte
  .next (drawn.2.setV x (drawn.1 &&& kk))

end Sys2Proof.Machine
end

