-- ==== Sys2Proof/Machine/MemoryTransfer.lean ====
section
/-! DEFINITION. The memory transfer instructions (44_memory_transfer.md R190 to R193). The whole range is checked
before the first byte moves (R193). -/

namespace Sys2Proof.Machine

open Sys2Proof Host

/-- LD B, Vx (R190): the three decimal digits at I, I+1, I+2. -/
def execLdB (x : RegIx) (s : State) : Outcome State Fault Refusal :=
  match s.blockFault 3 with
  | some a => .next (s.raise .memoryOutOfRange a)
  | none => .next (s.writeBytes s.base (bcdDigits (s.getV x)))

/-- LD [I], Vx (R191): V0..Vx to memory from I. -/
def execLdMemX (x : RegIx) (s : State) : Outcome State Fault Refusal :=
  match s.blockFault (x.val + 1) with
  | some a => .next (s.raise .memoryOutOfRange a)
  | none => .next ((s.writeBytes s.base (s.regsUpTo x)).setI (s.indexAfterTransfer x))

/-- LD Vx, [I] (R192): V0..Vx from memory at I. -/
def execLdXMem (x : RegIx) (s : State) : Outcome State Fault Refusal :=
  match s.blockFault (x.val + 1) with
  | some a => .next (s.raise .memoryOutOfRange a)
  | none => .next ({ s with v := s.regsFromMemory x }.setI (s.indexAfterTransfer x))

end Sys2Proof.Machine
end

