-- ==== Sys2Proof/Machine/Step.lean ====
section
/-! DEFINITION. One step of the machine is one `cycle()` (30_encoding.md R88): halted, it changes nothing (R87);
otherwise it fetches, advances pc, decodes, executes one instruction, and retires it or takes its fault. -/

namespace Sys2Proof.Machine

open Sys2Proof

/-- The cycle of a core that is not halted (R88). -/
def runCycle (s : State) : Host.Outcome State Fault Refusal :=
  match s.fetch with
  | .error a => .next (s.fetchFault a)
  | .ok op =>
    match decode op with
    | .error _ => .next (s.illegalOpcode op)
    | .ok i =>
      match exec i (s.beginExecute op) with
      | .next t => .next (s.endCycle t)
      | .fault f => .fault f
      | .refused r => .refused r

/-- `cycle()` (R87, R88, R223). What it returns to the host is the next state's `fault`. -/
def step (s : State) : Host.Outcome State Fault Refusal :=
  if s.halted then .next s else runCycle s

/-- `s` with the opcode whose opcode_table.json bits are `w` stored at pc, high byte first, where the next fetch reads
it (R53; log entry 7). -/
def State.withFetchWord (s : State) (nbits w : Nat) : State := s.placeAtPc (tableWordBytes nbits w)

end Sys2Proof.Machine
end

