-- ==== Sys2Proof/Asm.lean ====
section
/-! DEFINITION. The assembler text of an instruction (30_encoding.md R89, R90): the spec's mnemonics, operands separated
by commas, a register as V and one hexadecimal digit, literals in hexadecimal. Text is no semantics: nothing of the
machine uses this file. -/

namespace Sys2Proof

/-- One hexadecimal digit, as the listings of 95_test_vectors.md write it. -/
def hexDigit (n : Nat) : Char := "0123456789ABCDEF".toList.getD (n % 16) '0'

/-- `k` hexadecimal digits of `n`. -/
def hexDigits : Nat → Nat → List Char
  | 0, _ => []
  | k + 1, n => hexDigits k (n / 16) ++ [hexDigit n]

/-- A literal of `k` hexadecimal digits: 0x and the digits. -/
def hexLiteral (k n : Nat) : String := "0x" ++ String.ofList (hexDigits k n)

/-- A register: V and its digit. -/
def regText (x : RegIx) : String := "V" ++ String.ofList [hexDigit x.val]

/-- `op a, b`. -/
def asm2 (op a b : String) : String := op ++ " " ++ a ++ ", " ++ b

/-- The text of an instruction (R89; the "syntax" column of opcode_table.json). SHR and SHL are written with their `y`
field, which is always encoded. -/
def asmText : Instr → String
  | .sys nnn => "SYS " ++ hexLiteral 3 nnn.toNat
  | .cls => "CLS"
  | .ret => "RET"
  | .jp nnn => "JP " ++ hexLiteral 3 nnn.toNat
  | .call nnn => "CALL " ++ hexLiteral 3 nnn.toNat
  | .seImm x kk => asm2 "SE" (regText x) (hexLiteral 2 kk.toNat)
  | .sneImm x kk => asm2 "SNE" (regText x) (hexLiteral 2 kk.toNat)
  | .seReg x y => asm2 "SE" (regText x) (regText y)
  | .ldImm x kk => asm2 "LD" (regText x) (hexLiteral 2 kk.toNat)
  | .addImm x kk => asm2 "ADD" (regText x) (hexLiteral 2 kk.toNat)
  | .ldReg x y => asm2 "LD" (regText x) (regText y)
  | .or x y => asm2 "OR" (regText x) (regText y)
  | .and x y => asm2 "AND" (regText x) (regText y)
  | .xor x y => asm2 "XOR" (regText x) (regText y)
  | .addReg x y => asm2 "ADD" (regText x) (regText y)
  | .sub x y => asm2 "SUB" (regText x) (regText y)
  | .shr x y => asm2 "SHR" (regText x) (regText y)
  | .subn x y => asm2 "SUBN" (regText x) (regText y)
  | .shl x y => asm2 "SHL" (regText x) (regText y)
  | .sneReg x y => asm2 "SNE" (regText x) (regText y)
  | .ldI nnn => asm2 "LD" "I" (hexLiteral 3 nnn.toNat)
  | .jpV0 nnn => asm2 "JP" "V0" (hexLiteral 3 nnn.toNat)
  | .rnd x kk => asm2 "RND" (regText x) (hexLiteral 2 kk.toNat)
  | .drw x y n => asm2 "DRW" (regText x) (regText y) ++ ", " ++ String.ofList (Nat.toDigits 10 n.val)
  | .skp x => "SKP " ++ regText x
  | .sknp x => "SKNP " ++ regText x
  | .ldXDT x => asm2 "LD" (regText x) "DT"
  | .ldK x => asm2 "LD" (regText x) "K"
  | .ldDT x => asm2 "LD" "DT" (regText x)
  | .ldST x => asm2 "LD" "ST" (regText x)
  | .addI x => asm2 "ADD" "I" (regText x)
  | .ldF x => asm2 "LD" "F" (regText x)
  | .ldB x => asm2 "LD" "B" (regText x)
  | .ldMemX x => asm2 "LD" "[I]" (regText x)
  | .ldXMem x => asm2 "LD" (regText x) "[I]"

end Sys2Proof
end

