-- ==== Sys2Proof/Machine/HostOps.lean ====
section
/-! DEFINITION. The host's operations on the core (60_exceptions.md R222 to R229, 70_reset_and_hazards.md R240 to
R246). They happen between cycles only (R228), so they are functions beside `step` and not part of it (log entry 8). -/

namespace Sys2Proof.Machine

open Sys2Proof

/-- PROGRAM_BASE: the reset pc and the address of a loaded image (R7, R57). -/
def programBase : Nat := 0x200

/-- MAX_PROGRAM: the longest image (R7, R243). -/
def maxProgram : Nat := 4096 - programBase

/-- `load_program(bytes)` (R243): none is LoadError, with nothing written (R212). -/
def State.loadProgram (s : State) (image : List Byte) : Option State :=
  if image.length > maxProgram then none else some (s.writeBytes programBase image)

/-- `set_key(index, pressed)` (R225). -/
def State.setKey (s : State) (k : Fin 16) (pressed : Bool) : State :=
  { s with key := s.key.set k.val pressed k.isLt }

/-- The host's `tick()` (R224): an operation only under `external` coupling. -/
def State.hostTick (s : State) : Option State :=
  match s.config.timerCoupling with
  | .external => some s.tick
  | .perCycle => none

/-- One cell as the host sees it: ON_SENTINEL or 0 (R32, R226). -/
def cellByte (on : Bool) : Byte := if on then Config.onSentinel else 0

/-- `display_buffer()` (R226): the 2048 cells in row-major order, cell (x, y) at index y·64 + x (log
entry 12). -/
def State.displayBuffer (s : State) : List Byte :=
  s.disp.toList.flatMap fun row => row.toList.map cellByte

/-- `sound_timer()` (R227). -/
def State.soundTimer (s : State) : Byte := s.st

/-- The launch state of a claim (R246): a constructed machine with a loaded image and a given key latch. -/
def State.launch (c : Config) (keys : Vector Bool 16) (image : List Byte) : Option State :=
  State.loadProgram { State.construct c with key := keys } image

/-- What the host may do between two cycles (R222). -/
inductive HostOp where
  /-- `initialize()` (R241) -/
  | reinit
  /-- `load_program(bytes)` (R243) -/
  | loadProgram (image : List Byte)
  /-- `cycle()` (R223) -/
  | cycle
  /-- `tick()`, under `external` only (R224) -/
  | tick
  /-- `set_key(index, pressed)` (R225) -/
  | setKey (k : Fin 16) (pressed : Bool)
  /-- `display_buffer()` (R226) -/
  | displayBuffer
  /-- `sound_timer()` (R227) -/
  | soundTimer
  deriving DecidableEq, Repr

/-- What an operation gives back to the host (R222). -/
inductive HostReply where
  | nothing
  | ok
  | fault (r : FaultRecord)
  | loadError
  | cells (bytes : List Byte)
  | timer (b : Byte)
  deriving DecidableEq, Repr

/-- What `cycle()` returns: the fault that halts the core, or ok (R88, R223). -/
def cycleReply (s : State) : HostReply :=
  match s.fault with
  | some r => .fault r
  | none => .ok

/-- One host operation: the state after it and its reply; none where the host has no such operation (`tick()` under
`per_cycle`, R224; log entry 8). -/
def hostCall (op : HostOp) (s : State) : Option (State × HostReply) :=
  match op with
  | .reinit => some (s.reinit, .nothing)
  | .loadProgram image =>
    match s.loadProgram image with
    | some t => some (t, .ok)
    | none => some (s, .loadError)
  | .cycle =>
    match step s with
    | .next t => some (t, cycleReply t)
    | .fault _ => none
    | .refused _ => none
  | .tick => s.hostTick.map (·, .nothing)
  | .setKey k pressed => some (s.setKey k pressed, .nothing)
  | .displayBuffer => some (s, .cells s.displayBuffer)
  | .soundTimer => some (s, .timer s.soundTimer)

/-- Any number of host operations in any order (R228, R229): the state after them; none where one of them does not
exist. -/
def hostRun : List HostOp → State → Option State
  | [], s => some s
  | op :: ops, s =>
    match hostCall op s with
    | some (t, _) => hostRun ops t
    | none => none

end Sys2Proof.Machine
end

