-- ==== Sys2Proof/Safety.lean ====
section
/-! DEFINITION. What claims call a good state, an operating state and the end of a run (10_state.md R40,
70_reset_and_hazards.md R253). -/

namespace Sys2Proof.Machine

open Sys2Proof

/-- No fault has been taken: the core is not halted (R207). -/
def State.safe (s : State) : Prop := s.fault = none

/-- The instruction the next cycle executes, if its fetch and its decode succeed. -/
def State.nextInstr (s : State) : Option Instr :=
  match s.fetch with
  | .error _ => none
  | .ok op =>
    match decode op with
    | .ok i => some i
    | .error _ => none

/-- The operating states of R40. -/
inductive OperatingState where
  /-- one instruction retired per cycle -/
  | running
  /-- the last cycle was a key wait -/
  | awaitingKey
  /-- a fault was taken -/
  | halted
  deriving DecidableEq, Repr

/-- The cycle from `s` executes LD Vx, K with no key down (R40, R173). -/
def State.waits (s : State) : Bool :=
  match s.nextInstr with
  | some (.ldK _) => !s.halted && s.lowestKey.isNone
  | _ => false

/-- The operating state in which the cycle from `before` to `after` leaves the core: it is not a stored bit but a fact
about the last cycle (R40; log entry 15). -/
def operatingState (before after : State) : OperatingState :=
  if after.halted then .halted else if before.waits then .awaitingKey else .running

/-- The cycle from `s` is a spin: JP to its own address (R253 a). -/
def State.spins (s : State) : Bool :=
  match s.nextInstr with
  | some (.jp nnn) => !s.halted && addrOperand nnn == s.pc
  | _ => false

/-- How a run ends (R253). -/
inductive RunEnd where
  /-- a cycle was a one-instruction self-loop -/
  | spin
  /-- a fault halted the core: a failure of every claim -/
  | fault
  /-- the given number of cycles is used up: an unfinished end -/
  | fuel
  deriving DecidableEq, Repr

/-- Run cycles until a spin, a fault or the end of the fuel (R253): how it ended, and the state then. -/
def runToEnd : Nat → State → RunEnd × State
  | 0, s => (if s.halted then .fault else .fuel, s)
  | fuel + 1, s =>
    if s.halted then (.fault, s)
    else
      match step s with
      | .next t => if s.spins then (.spin, t) else runToEnd fuel t
      | .fault _ => (.fault, s)
      | .refused _ => (.fault, s)

/-! ## The invariant of the machine -/

/-- What every step and every host operation keeps: memory in its canonical form; every return address in use one a
CALL can push, so at most 0x1000 (R102, R104); pc within reach of an instruction, so at most 0x10FE (R100, R109); and a
halted core's record naming the pc the fault left in place (R206). -/
structure State.Inv (s : State) : Prop where
  memWf : Memory.wf s.config s.mem
  stackLow : ∀ k : Fin 16, k.val < s.sp.val → (s.stack[k]).toNat ≤ 0x1000
  pcLow : s.pc.toNat ≤ 0x10FE
  faultPc : ∀ r, s.fault = some r → r.pc = s.pc

end Sys2Proof.Machine
end

