-- ==== Sys2Proof/Certificates/Slice0/Obligations.lean ====
section
/-! DEFINITION. The statements about the machine, for the provers. They are about every state, so about every
configuration (00_scope.md R8). A statement about `exec` speaks of an instruction as its rule does: it starts after
the cycle has set the opcode register and advanced pc (R13), so its own address `pc0` is `s.pc - 2`.

Where a rule carries a decision of the spec's own (92_eei_decisions.md D<n>) or a passage it marks as general knowledge
(93_implementation_defined.md K<n>), the docstring of a statement that rests on it names that D<n> or K<n>; where one
rests on a choice of this model, it names the log entry. -/

open Sys2Proof Sys2Proof.Machine

namespace Sys2Proof.Claims

/-! ## Words the statements are made of -/

/-- The opcode a fetch at pc reads: `mem[pc]` is the high byte (R53). -/
def wordAtPc (s : State) : Word := s.readByte s.pc.toNat ++ s.readByte (s.pc.toNat + 1)

/-- The words of families 0x8, 0xE and 0xF whose secondary key has no handler: the first three classes of R81. -/
def illegalSlot (op : Word) : Prop :=
  (op.extractLsb' 12 4 = 0x8#4 ∧ op.extractLsb' 0 4 ∈ [0x8#4, 0x9#4, 0xA#4, 0xB#4, 0xC#4, 0xD#4, 0xF#4]) ∨
  (op.extractLsb' 12 4 = 0xE#4 ∧ op.extractLsb' 0 8 ∉ [0x9E#8, 0xA1#8]) ∨
  (op.extractLsb' 12 4 = 0xF#4 ∧
    op.extractLsb' 0 8 ∉ [0x07#8, 0x0A#8, 0x15#8, 0x18#8, 0x1E#8, 0x29#8, 0x33#8, 0x55#8, 0x65#8])

/-- The SYS words: 0nnn with a low byte other than 0xE0 and 0xEE, the fourth class of R81. -/
def sysWord (op : Word) : Prop :=
  op.extractLsb' 12 4 = 0x0#4 ∧ op.extractLsb' 0 8 ∉ [0xE0#8, 0xEE#8]

/-- The state an instruction leaves that raises a fault: the record is written and nothing else (R210). -/
def faulted (s : State) (kind : FaultKind) (info : Nat) : State :=
  { s with fault := some { kind := kind, opcode := s.opcode, pc := s.pc - 2, info := info } }

/-- `t` is `s` with `b` in V[x]: no other register and no other state differs. -/
def writesRegister (s t : State) (x : RegIx) (b : Byte) : Prop :=
  t = { s with v := t.v } ∧ t.getV x = b ∧ ∀ k, k ≠ x → t.getV k = s.getV k

/-- `t` is `s` with a result in V[x] and then a flag in VF: where x is 15 VF ends with the flag; no other register and
no other state differs (R22, R120). -/
def writesResultThenFlag (s t : State) (x : RegIx) (result : Nat) (flag : Prop) [Decidable flag] : Prop :=
  t = { s with v := t.v } ∧ t.getV 15 = (if flag then 1 else 0) ∧
    (x ≠ 15 → (t.getV x).toNat = result) ∧ ∀ k, k ≠ x → k ≠ 15 → t.getV k = s.getV k

/-- One decrement of a timer, saturating at 0 (R214). -/
def decremented (b : Byte) : Byte := if b = 0 then 0 else b - 1

/-- Some pixel of the sprite of `DRW Vx, Vy, n` falls on cell (X, Y) under the machine's edge policy (R152, R153). -/
def spriteHits (s : State) (x y : RegIx) (n : Fin 16) (X : Fin 64) (Y : Fin 32) : Prop :=
  ∃ r c : Nat, r < n.val ∧ c < 8 ∧ (s.readByte (s.i.toNat + r)).getLsbD (7 - c) = true ∧
    match s.config.drawEdge with
    | .wrap => ((s.getV x).toNat % 64 + c) % 64 = X.val ∧ ((s.getV y).toNat % 32 + r) % 32 = Y.val
    | .clip => (s.getV x).toNat % 64 + c = X.val ∧ (s.getV y).toNat % 32 + r = Y.val

/-- How many bytes from I an instruction accesses (R52); 0 for one that accesses none. -/
def bytesFromI : Instr → Nat
  | .drw _ _ n => n.val
  | .ldB _ => 3
  | .ldMemX x => x.val + 1
  | .ldXMem x => x.val + 1
  | _ => 0

/-- The registers an instruction may write (R23). -/
def mayWriteV (c : Config) (k : RegIx) : Instr → Prop
  | .ldImm x _ => k = x
  | .addImm x _ => k = x
  | .ldReg x _ => k = x
  | .or x _ => k = x
  | .and x _ => k = x
  | .xor x _ => k = x
  | .addReg x _ => k = x ∨ k = 15
  | .sub x _ => k = x ∨ k = 15
  | .shr x _ => k = x ∨ k = 15
  | .subn x _ => k = x ∨ k = 15
  | .shl x _ => k = x ∨ k = 15
  | .rnd x _ => k = x
  | .drw _ _ _ => k = 15
  | .addI _ => c.addIndexOverflowFlag = true ∧ k = 15
  | .ldXDT x => k = x
  | .ldK x => k = x
  | .ldXMem x => k ≤ x
  | _ => False

/-- The instructions that may write I (R24). -/
def mayWriteI (c : Config) : Instr → Prop
  | .ldI _ => True
  | .addI _ => True
  | .ldF _ => True
  | .ldMemX _ => c.loadStoreQuirk = true
  | .ldXMem _ => c.loadStoreQuirk = true
  | _ => False

/-- The instructions that may write the display (R32). -/
def mayWriteDisplay : Instr → Prop
  | .cls => True
  | .drw _ _ _ => True
  | _ => False

/-- The addresses an instruction may store to: I..I+2 and I..I+x (R52). -/
def mayStoreTo (s : State) (a : Nat) : Instr → Prop
  | .ldB _ => s.i.toNat ≤ a ∧ a < s.i.toNat + 3
  | .ldMemX x => s.i.toNat ≤ a ∧ a ≤ s.i.toNat + x.val
  | _ => False

/-- The pc a retired cycle leaves, from the state it began in (R26). -/
def pcAfter (s t : State) : Instr → Prop
  | .jp nnn => t.pc.toNat = nnn.toNat
  | .call nnn => t.pc.toNat = nnn.toNat
  | .jpV0 nnn => t.pc.toNat = nnn.toNat + (s.getV 0).toNat
  | .ret => ∃ k : Fin 16, k.val + 1 = s.sp.val ∧ t.pc = s.stack[k]
  | .seImm x kk => t.pc = if s.getV x = kk then s.pc + 4 else s.pc + 2
  | .sneImm x kk => t.pc = if s.getV x = kk then s.pc + 2 else s.pc + 4
  | .seReg x y => t.pc = if s.getV x = s.getV y then s.pc + 4 else s.pc + 2
  | .sneReg x y => t.pc = if s.getV x = s.getV y then s.pc + 2 else s.pc + 4
  | .skp x => ∃ k : Fin 16, k.val = (s.getV x).toNat ∧ t.pc = if s.keyDown k then s.pc + 4 else s.pc + 2
  | .sknp x => ∃ k : Fin 16, k.val = (s.getV x).toNat ∧ t.pc = if s.keyDown k then s.pc + 2 else s.pc + 4
  | .ldK _ => t.pc = if ∃ k, s.keyDown k = true then s.pc + 2 else s.pc
  | _ => t.pc = s.pc + 2

/-- DT as the instruction leaves it, before the tick (R30). -/
def dtWritten (s : State) : Instr → Byte
  | .ldDT x => s.getV x
  | _ => s.dt

/-- ST as the instruction leaves it, before the tick (R31). -/
def stWritten (s : State) : Instr → Byte
  | .ldST x => s.getV x
  | _ => s.st

end Sys2Proof.Claims

open Sys2Proof.Claims

/-! ## Encoding and decode -/

/-- Eleven words, at least one of each operand form and each family, decode to the instructions they stand for, and
0x8008 is an illegal opcode (R72, R75 to R81, R91). That 0x0123 decodes to SYS under every policy, where R91 makes
it ILLEGAL in the decoder under the default `sys_policy`, is log entry 5. Every word but the 8xy_ and Bnnn ones
rests on general knowledge (K3, K4; log entry 10). -/
def Obligations.SpecWordsDecode : Prop :=
  decode 0x00E0 = .ok .cls ∧ decode 0x0FEE = .ok .ret ∧ decode 0x0123 = .ok (.sys 0x123) ∧
  decode 0x2ABC = .ok (.call 0xABC) ∧ decode 0x3342 = .ok (.seImm 3 0x42) ∧ decode 0x5121 = .ok (.seReg 1 2) ∧
  decode 0x8F14 = .ok (.addReg 15 1) ∧ decode 0xB123 = .ok (.jpV0 0x123) ∧ decode 0xD015 = .ok (.drw 0 1 5) ∧
  decode 0xE2A1 = .ok (.sknp 2) ∧ decode 0xF255 = .ok (.ldMemX 2) ∧
  decode 0x8008 = .error (.illegalOpcode 0x8008)

/-- Decode and encode agree: the two bytes of the encoding of a well-formed instruction, high byte first, decode to
that instruction and to nothing more of the byte list (R53, R70, R91). That the high byte comes first is K1 (log
entry 11). That the SYS words decode to SYS under every policy is log entry 5. -/
def Obligations.DecodeOfEncodeIsTheInstruction : Prop :=
  ∀ (i : Instr) (rest : List Byte), i.wellFormed = true →
    decode (encode i) = .ok i ∧
    decodeBytes ((encode i).extractLsb' 8 8 :: (encode i).extractLsb' 0 8 :: rest) = .ok (i, rest)

/-- A decoded word is the encoding of its instruction but for the bits R80 says are ignored, so no other bit is; and
those bits are: a word that differs in them alone decodes to the same instruction. R80 is the spec's own inference
from R75 and R76 (D5). That the SYS words decode to SYS under every policy is log entry 5. -/
def Obligations.DispatchIgnoresOnlyTheNamedBits : Prop :=
  ∀ (op : Word) (i : Instr), decode op = .ok i →
    (i.wellFormed = true ∧ encode i = op &&& ~~~(ignoredBits i)) ∧
    ∀ op' : Word, op' &&& ~~~(ignoredBits i) = op &&& ~~~(ignoredBits i) → decode op' = .ok i

/-- The words without an instruction are exactly the first three classes of R81; every other word is one instruction
(R81, R82). The SYS words are instructions here under every policy (log entry 5), and IllegalOpcodeIsTaken has their
fault. The keys are general knowledge (K4; log entry 10). -/
def Obligations.IllegalWordsAreExactlyTheUnhandledKeys : Prop :=
  ∀ op : Word, (illegalSlot op → decode op = .error (.illegalOpcode op)) ∧
    (¬ illegalSlot op → ∃ i, decode op = .ok i)

/-! ## The cycle -/

/-- A step runs the decoded instruction: the word at pc goes into the opcode register, pc advances by 2, the
instruction executes, and then either its fault is taken with all else as before the cycle, or the cycle retires
with a tick under `per_cycle` (R83 to R86, R88). The high byte first is K1 (log entry 11). -/
def Obligations.StepRunsTheDecodedInstruction : Prop :=
  ∀ (s : State) (i : Instr), s.fault = none → s.pc.toNat ≤ 0xFFE → decode (wordAtPc s) = .ok i →
    step s =
      match exec i { s with opcode := wordAtPc s, pc := s.pc + 2 } with
      | .next t =>
        .next (match t.fault with
          | some r => { s with fault := some r }
          | none =>
            if t.config.timerCoupling = .perCycle then
              { t with dt := decremented t.dt, st := decremented t.st }
            else t)
      | .fault f => .fault f
      | .refused r => .refused r

/-- A fetch above 0xFFE takes MemoryOutOfRange with opcode 0 and the first out-of-range address (R56, R83, R208).
The spec's decision D9. -/
def Obligations.FetchAboveFFEFaults : Prop :=
  ∀ s : State, s.fault = none → 0xFFE < s.pc.toNat →
    step s = .next { s with fault := some { kind := .memoryOutOfRange, opcode := 0, pc := s.pc,
                                            info := if s.pc.toNat = 0xFFF then 0x1000 else s.pc.toNat } }

/-- A halted core's cycle changes nothing and returns the fault (R87, R207). The spec's decision D13. -/
def Obligations.HaltedCycleChangesNothing : Prop :=
  ∀ (s : State) (r : FaultRecord), s.fault = some r →
    step s = .next s ∧ hostCall .cycle s = some (s, .fault r)

/-- Every word R81 lists takes IllegalOpcode, with the word in the record, the SYS words under `sys_policy = fault`
(R81, R201). -/
def Obligations.IllegalOpcodeIsTaken : Prop :=
  ∀ s : State, s.fault = none → s.pc.toNat ≤ 0xFFE →
    (illegalSlot (wordAtPc s) ∨ (sysWord (wordAtPc s) ∧ s.config.sysPolicy = .fault)) →
    step s = .next { s with fault := some { kind := .illegalOpcode, opcode := wordAtPc s, pc := s.pc,
                                            info := (wordAtPc s).toNat } }

/-- A cycle always answers a next state: it retires, or it takes a fault and only the record is written (R88). -/
def Obligations.EveryCycleRetiresOrFaults : Prop :=
  ∀ s : State, s.fault = none →
    ∃ t, step s = .next t ∧ (t.fault = none ∨ ∃ r, t = { s with fault := some r })

/-- Faults are precise: whatever instruction raised it, a fault leaves every piece of state as before the cycle but
the record, and the record names the instruction's address (R206). The spec's decision D12. -/
def Obligations.FaultsArePrecise : Prop :=
  ∀ (s t : State) (r : FaultRecord), s.fault = none → step s = .next t → t.fault = some r →
    t = { s with fault := some r } ∧ r.pc = s.pc

/-- The only faults and their records: which instruction raises which kind, in which state, with which opcode, pc
and extra value (R37, R200, R208). MemoryOutOfRange and BadKeyIndex are the spec's decisions D9 and D23, the order
of the checks D34, the record D38. -/
def Obligations.OnlyTheseFaultsAreTaken : Prop :=
  ∀ (s t : State) (r : FaultRecord), s.fault = none → step s = .next t → t.fault = some r →
    r.pc = s.pc ∧
    ((0xFFE < s.pc.toNat ∧ r.kind = .memoryOutOfRange ∧ r.opcode = 0 ∧ r.info = max s.pc.toNat 0x1000) ∨
     (s.pc.toNat ≤ 0xFFE ∧ r.opcode = wordAtPc s ∧
      ((r.kind = .illegalOpcode ∧ r.info = (wordAtPc s).toNat ∧
          (illegalSlot (wordAtPc s) ∨ (sysWord (wordAtPc s) ∧ s.config.sysPolicy = .fault))) ∨
       (r.kind = .stackOverflow ∧ r.info = 16 ∧ s.sp.val = 16 ∧ ∃ nnn, decode (wordAtPc s) = .ok (.call nnn)) ∨
       (r.kind = .stackUnderflow ∧ r.info = 0 ∧ s.sp.val = 0 ∧ decode (wordAtPc s) = .ok .ret) ∨
       (r.kind = .badKeyIndex ∧ ∃ x, r.info = (s.getV x).toNat ∧ 0xF < (s.getV x).toNat ∧
          (decode (wordAtPc s) = .ok (.skp x) ∨ decode (wordAtPc s) = .ok (.sknp x))) ∨
       (r.kind = .memoryOutOfRange ∧ ∃ i, decode (wordAtPc s) = .ok i ∧ bytesFromI i ≠ 0 ∧
          0x1000 < s.i.toNat + bytesFromI i ∧ r.info = max s.i.toNat 0x1000))))

/-- A retired cycle leaves the word it executed in the opcode register (R34, R83). The spec's decision D40. -/
def Obligations.RetiredCycleRecordsTheOpcode : Prop :=
  ∀ s t : State, s.fault = none → step s = .next t → t.fault = none → t.opcode = wordAtPc s

/-- Under `per_cycle` every retired cycle decrements both timers once, after the instruction; under `external` none
does (R86, R215, R216). The spec's decision D16. -/
def Obligations.RetiredCycleTicksPerCoupling : Prop :=
  ∀ (s t : State) (i : Instr), s.fault = none → s.nextInstr = some i → step s = .next t → t.fault = none →
    (s.config.timerCoupling = .perCycle →
      t.dt = decremented (dtWritten s i) ∧ t.st = decremented (stWritten s i)) ∧
    (s.config.timerCoupling = .external → t.dt = dtWritten s i ∧ t.st = stWritten s i)

/-- pc after a retired cycle, for every instruction: jumps and CALL overwrite it, RET loads it, a skip adds 2 more,
LD Vx, K may set it back, and every other instruction leaves it 2 further (R26). The unmasked sum of JP V0 is the
spec's decision D37. -/
def Obligations.PcAfterARetiredCycle : Prop :=
  ∀ (s t : State) (i : Instr), s.fault = none → s.nextInstr = some i → step s = .next t → t.fault = none →
    pcAfter s t i

/-- No cycle writes the configuration or the key latch (R33, R38). -/
def Obligations.NoCycleWritesConfigOrKeys : Prop :=
  ∀ s t : State, step s = .next t → t.config = s.config ∧ t.key = s.key

/-- Which instructions write which state: general registers, I, the display, memory byte by byte, the call stack
(R23, R24, R28, R32, R52). -/
def Obligations.OnlyTheNamedInstructionsWriteEachState : Prop :=
  ∀ (s t : State) (i : Instr), s.fault = none → s.nextInstr = some i → step s = .next t → t.fault = none →
    (∀ k, ¬ mayWriteV s.config k i → t.getV k = s.getV k) ∧
    (¬ mayWriteI s.config i → t.i = s.i) ∧
    (¬ mayWriteDisplay i → t.disp = s.disp) ∧
    (∀ a, ¬ mayStoreTo s a i → t.readByte a = s.readByte a) ∧
    ((∀ nnn, i ≠ .call nnn) → t.stack = s.stack) ∧
    ((∀ nnn, i ≠ .call nnn) → i ≠ .ret → t.sp = s.sp)

/-- A word stored at pc is the word the next fetch reads, high byte first: stores and fetches share one memory (R53,
R64). The byte order is K1 (log entry 11). -/
def Obligations.StoredWordIsFetched : Prop :=
  ∀ (s : State) (op : Word), s.pc.toNat ≤ 0xFFE →
    (s.writeBytes s.pc.toNat [op.extractLsb' 8 8, op.extractLsb' 0 8]).fetch = .ok op

/-- A spin repeats: a cycle that executes JP to its own address leaves a state that spins again and differs only in
the opcode register and, under `per_cycle`, the timers (R253 a). The spec's decision D35. -/
def Obligations.SpinRepeats : Prop :=
  ∀ s t : State, s.spins = true → step s = .next t →
    t.spins = true ∧ t = { s with opcode := t.opcode, dt := t.dt, st := t.st } ∧
    (s.config.timerCoupling = .external → t.dt = s.dt ∧ t.st = s.st)

/-- A run that ended in a fault left a halted core and no other run did; a run that ended in a spin left a core that
spins for ever (R253). The spec's decision D35. -/
def Obligations.RunEndTellsTheFinalState : Prop :=
  ∀ (fuel : Nat) (s : State),
    ((runToEnd fuel s).1 = .fault ↔ (runToEnd fuel s).2.fault ≠ none) ∧
    ((runToEnd fuel s).1 = .spin → (runToEnd fuel s).2.spins = true)

/-- No instruction reads ST: two states that differ in ST alone step to states that differ in ST alone (R31). Two
runs are compared, and for RND the statement rests on both drawing the same byte at the same count, the choice of
log entry 2: R9 links no two draws. -/
def Obligations.SoundTimerIsNeverRead : Prop :=
  ∀ (s t : State) (b : Byte), step s = .next t → ∃ b', step { s with st := b } = .next { t with st := b' }

/-- No cycle reads the opcode an earlier cycle left: what the register held before shows after the cycle only where
the cycle did not retire (R34). The spec's decision D40. Two runs are compared, and for RND the statement rests on
both drawing the same byte at the same count, the choice of log entry 2: R9 links no two draws. -/
def Obligations.OpcodeRegisterIsNotReadByLaterCycles : Prop :=
  ∀ (s t : State) (op : Word), step s = .next t →
    step { s with opcode := op } = .next { t with opcode := if t.fault = none then t.opcode else op }

/-- No instruction reads a stack entry at or above sp: states that agree below sp step to states that agree below sp
and in everything else (R29). The spec's decision D15. Two runs are compared, and for RND the statement rests on
both drawing the same byte at the same count, the choice of log entry 2: R9 links no two draws. -/
def Obligations.StackEntriesAboveSpAreNeverRead : Prop :=
  ∀ (s t : State) (stack' : Vector Word 16), (∀ k : Fin 16, k.val < s.sp.val → stack'[k] = s.stack[k]) →
    step s = .next t → ∃ stack'', step { s with stack := stack' } = .next { t with stack := stack'' } ∧
      ∀ k : Fin 16, k.val < t.sp.val → stack''[k] = t.stack[k]

/-! ## Invariants -/

/-- Every step keeps the invariant of the machine (State.Inv): memory in canonical form and inside 4096 bytes,
return addresses in use at most 0x1000, pc at most 0x10FE, a halted core's record naming its pc (R102, R109, R206).
The canonical form is the model's (log entry 9). -/
def Obligations.StepKeepsTheMachineInvariant : Prop :=
  ∀ s t : State, s.Inv → step s = .next t → t.Inv

/-- Every sequence of host operations keeps the invariant of the machine (R222, R228). -/
def Obligations.HostOperationsKeepTheMachineInvariant : Prop :=
  ∀ (ops : List HostOp) (s t : State), s.Inv → hostRun ops s = some t → t.Inv

/-- A constructed machine, of any configuration, has the invariant. -/
def Obligations.ConstructedMachineHasTheInvariant : Prop := ∀ c : Config, (State.construct c).Inv

/-! ## Reset and the host's operations -/

/-- The reset values, under any configuration, after construction and after `initialize()`: registers, I, sp, the
stack, the timers, the opcode register zero, pc 0x200, no fault, display off, memory zero but for the font; keys
released at construction and left alone by `initialize()` (R42). It speaks of the addresses that exist. Where
FONT_BASE is above 0xFB0 the font does not fit below 0x1000, the spec says nothing of such a machine, and the
clauses on the font and the zero bytes are the model's choice (log entry 9). The values beyond "memory, registers,
pc" are the spec's decision D27. -/
def Obligations.ResetValues : Prop :=
  ∀ (c : Config) (u s : State),
    (s = State.construct c ∨ (u.config = c ∧ hostCall .reinit u = some (s, .nothing))) →
    (∀ k, s.getV k = 0) ∧ s.i = 0 ∧ s.pc = 0x200 ∧ s.sp = 0 ∧ (∀ k : Fin 16, s.stack[k] = 0) ∧
    s.dt = 0 ∧ s.st = 0 ∧ s.opcode = 0 ∧ s.fault = none ∧ (∀ x y, s.cell x y = false) ∧
    (∀ j : Fin 80, c.fontBase.toNat + j.val ≤ 0xFFF → s.readByte (c.fontBase.toNat + j.val) = c.fontData[j]) ∧
    (∀ a, a ≤ 0xFFF → a < c.fontBase.toNat ∨ c.fontBase.toNat + 80 ≤ a → s.readByte a = 0) ∧
    (s = State.construct c → ∀ k, s.keyDown k = false) ∧
    (hostCall .reinit u = some (s, .nothing) → s.key = u.key)

/-- `initialize()` gives every piece of state its reset value, clears the fault, and leaves the key latch and the
configuration (R241, R207). That the draw counter stays is the model's choice (log entry 2). -/
def Obligations.InitializeResetsAllButTheKeys : Prop :=
  ∀ s : State, hostCall .reinit s =
    some ({ State.construct s.config with key := s.key, draws := s.draws }, .nothing)

/-- `load_program`: an image over 3584 bytes is a LoadError and changes nothing; any other is copied to 0x200 onward
and changes nothing else (R243). The spec's decision D26. -/
def Obligations.LoadProgramCopiesOrRefuses : Prop :=
  ∀ (s : State) (image : List Byte),
    (4096 - 0x200 < image.length → hostCall (.loadProgram image) s = some (s, .loadError)) ∧
    (image.length ≤ 4096 - 0x200 → ∃ t, hostCall (.loadProgram image) s = some (t, .ok) ∧
      t = { s with mem := t.mem } ∧
      (∀ j (h : j < image.length), t.readByte (0x200 + j) = image[j]) ∧
      (∀ a, a < 0x200 ∨ 0x200 + image.length ≤ a → t.readByte a = s.readByte a))

/-- The launch state of a claim, for any configuration and key latch: an image that fits gives a state with no fault,
pc 0x200, nothing on the stack, the display off, timers, registers and I zero, and the image from 0x200 on; a longer
image gives none (R243, R246). -/
def Obligations.LaunchStateMeetsItsPremises : Prop :=
  ∀ (c : Config) (keys : Vector Bool 16) (image : List Byte),
    (image.length ≤ 3584 → ∃ s, State.launch c keys image = some s ∧
      s.fault = none ∧ s.pc = 0x200 ∧ s.sp = 0 ∧ (∀ x y, s.cell x y = false) ∧ s.dt = 0 ∧ s.st = 0 ∧
      (∀ k, s.getV k = 0) ∧ s.i = 0 ∧ s.key = keys ∧ s.config = c ∧
      (∀ j (h : j < image.length), s.readByte (0x200 + j) = image[j])) ∧
    (3584 < image.length → State.launch c keys image = none)

/-- `set_key` writes one entry of the latch and nothing else (R225). -/
def Obligations.SetKeyWritesOneKey : Prop :=
  ∀ (s : State) (k : Fin 16) (pressed : Bool), ∃ t, hostCall (.setKey k pressed) s = some (t, .nothing) ∧
    t = { s with key := t.key } ∧ t.keyDown k = pressed ∧ ∀ j, j ≠ k → t.keyDown j = s.keyDown j

/-- The host's tick lowers both timers, saturating at 0, under `external`; under `per_cycle` there is no such
operation (R214, R224). `sound_timer()` gives ST and changes nothing (R227). The spec's decision D16. That an
operation the host has not got answers none is log entry 8. -/
def Obligations.HostTickAndSoundTimer : Prop :=
  ∀ s : State,
    (s.config.timerCoupling = .external →
      hostCall .tick s = some ({ s with dt := decremented s.dt, st := decremented s.st }, .nothing)) ∧
    (s.config.timerCoupling = .perCycle → hostCall .tick s = none) ∧
    hostCall .soundTimer s = some (s, .timer s.st)

/-- `display_buffer()` gives the 2048 cells in row-major order, ON_SENTINEL for on and 0 for off, and changes
nothing (R226). ON_SENTINEL is a free value: the statement holds whatever it is. Row-major order is general
knowledge (K14, D25; log entry 12). -/
def Obligations.DisplayBufferIsRowMajor : Prop :=
  ∀ s : State, ∃ bytes, hostCall .displayBuffer s = some (s, .cells bytes) ∧ bytes.length = 2048 ∧
    ∀ (x : Fin 64) (y : Fin 32), bytes[y.val * 64 + x.val]? = some (if s.cell x y then Config.onSentinel else 0)

/-! ## Control flow -/

/-- SYS: IllegalOpcode with the fetched opcode under `fault`, nothing under `nop` (R101). The spec's decision D4. -/
def Obligations.SysFollowsThePolicy : Prop :=
  ∀ (nnn : Addr12) (s : State),
    (s.config.sysPolicy = .nop → exec (.sys nnn) s = .next s) ∧
    (s.config.sysPolicy = .fault → exec (.sys nnn) s = .next (faulted s .illegalOpcode s.opcode.toNat))

/-- RET pops the top entry into pc, or takes StackUnderflow; the popped entry keeps its value (R29, R102). -/
def Obligations.RetPopsIntoPc : Prop :=
  ∀ s : State,
    (∀ k : Fin 16, k.val + 1 = s.sp.val → ∃ t, exec .ret s = .next t ∧
      t = { s with pc := t.pc, sp := t.sp } ∧ t.pc = s.stack[k] ∧ t.sp.val = k.val) ∧
    (s.sp.val = 0 → exec .ret s = .next (faulted s .stackUnderflow 0))

/-- CALL pushes the next instruction's address and jumps, or takes StackOverflow with 16 entries in use (R29, R104). -/
def Obligations.CallPushesAndJumps : Prop :=
  ∀ (nnn : Addr12) (s : State),
    (∀ k : Fin 16, k.val = s.sp.val → ∃ t, exec (.call nnn) s = .next t ∧
      t = { s with pc := t.pc, sp := t.sp, stack := t.stack } ∧ t.pc.toNat = nnn.toNat ∧
      t.sp.val = k.val + 1 ∧ t.stack[k] = s.pc ∧ ∀ j : Fin 16, j ≠ k → t.stack[j] = s.stack[j]) ∧
    (s.sp.val = 16 → exec (.call nnn) s = .next (faulted s .stackOverflow 16))

/-- A CALL and then, from whatever the subroutine leaves outside the call stack, a RET: pc is the address after the CALL
and the stack pointer is as before it (R102, R104). -/
def Obligations.CallThenRetReturns : Prop :=
  ∀ (nnn : Addr12) (s t u : State), s.sp.val < 16 → exec (.call nnn) s = .next t →
    u.sp = t.sp → u.stack = t.stack → ∃ w, exec .ret u = .next w ∧ w.pc = s.pc ∧ w.sp = s.sp

/-- JP and JP V0 write pc and nothing else; the sum of JP V0 is not masked (R103, R109). The unmasked sum is the
spec's decision D37. -/
def Obligations.JumpsSetPc : Prop :=
  ∀ (nnn : Addr12) (s : State),
    (∃ t, exec (.jp nnn) s = .next t ∧ t = { s with pc := t.pc } ∧ t.pc.toNat = nnn.toNat) ∧
    (∃ t, exec (.jpV0 nnn) s = .next t ∧ t = { s with pc := t.pc } ∧
      t.pc.toNat = nnn.toNat + (s.getV 0).toNat)

/-- The skips on an immediate add 2 to pc when their condition holds, and change nothing else (R105, R106). -/
def Obligations.ImmediateSkips : Prop :=
  ∀ (x : RegIx) (kk : Byte) (s : State),
    exec (.seImm x kk) s = .next (if s.getV x = kk then { s with pc := s.pc + 2 } else s) ∧
    exec (.sneImm x kk) s = .next (if s.getV x ≠ kk then { s with pc := s.pc + 2 } else s)

/-- The skips on two registers add 2 to pc when their condition holds, and change nothing else (R107, R108). The
ignored low nibble (D5) is in DispatchIgnoresOnlyTheNamedBits. -/
def Obligations.RegisterSkips : Prop :=
  ∀ (x y : RegIx) (s : State),
    exec (.seReg x y) s = .next (if s.getV x = s.getV y then { s with pc := s.pc + 2 } else s) ∧
    exec (.sneReg x y) s = .next (if s.getV x ≠ s.getV y then { s with pc := s.pc + 2 } else s)

/-! ## Loads and arithmetic -/

/-- LD Vx, byte and LD Vx, Vy copy, and ADD Vx, byte adds modulo 256 without a flag; each writes Vx alone (R121,
R122, R123). The meaning of LD Vx, byte and ADD Vx, byte is general knowledge (K5; log entry 10). -/
def Obligations.LoadsAndImmediateAddWriteOneRegister : Prop :=
  ∀ (x y : RegIx) (kk : Byte) (s : State),
    (∃ t, exec (.ldImm x kk) s = .next t ∧ writesRegister s t x kk) ∧
    (∃ t, exec (.ldReg x y) s = .next t ∧ writesRegister s t x (s.getV y)) ∧
    (∃ t, exec (.addImm x kk) s = .next t ∧ writesRegister s t x (t.getV x) ∧
      (t.getV x).toNat = ((s.getV x).toNat + kk.toNat) % 256)

/-- OR, AND and XOR write Vx bit by bit and nothing else, VF included unless x = F (R124, R125, R126). The unchanged
VF is the spec's decision D21. -/
def Obligations.LogicWritesOneRegister : Prop :=
  ∀ (x y : RegIx) (s : State),
    (∃ t, exec (.or x y) s = .next t ∧ writesRegister s t x (s.getV x ||| s.getV y)) ∧
    (∃ t, exec (.and x y) s = .next t ∧ writesRegister s t x (s.getV x &&& s.getV y)) ∧
    (∃ t, exec (.xor x y) s = .next t ∧ writesRegister s t x (s.getV x ^^^ s.getV y))

/-- ADD Vx, Vy: the sum modulo 256, then VF = 1 iff the 8-bit sum overflows (R127). The order of the two writes is
the spec's decision D20 (log entry 14). -/
def Obligations.AddRegisterSumAndCarry : Prop :=
  ∀ (x y : RegIx) (s : State), ∃ t, exec (.addReg x y) s = .next t ∧
    writesResultThenFlag s t x (((s.getV x).toNat + (s.getV y).toNat) % 256)
      ((s.getV x).toNat + (s.getV y).toNat > 0xFF)

/-- SUB: Vx − Vy modulo 256, then VF = 1 iff Vx ≥ Vy (R128). The order of the two writes is D20 (log entry 14). -/
def Obligations.SubDifferenceAndNoBorrow : Prop :=
  ∀ (x y : RegIx) (s : State), ∃ t, exec (.sub x y) s = .next t ∧
    writesResultThenFlag s t x ((256 + (s.getV x).toNat - (s.getV y).toNat) % 256)
      ((s.getV x).toNat ≥ (s.getV y).toNat)

/-- SUBN: Vy − Vx modulo 256, then VF = 1 iff Vy ≥ Vx (R130). The operand order is general knowledge (K6; log entry
10), the order of the two writes D20 (log entry 14). -/
def Obligations.SubnDifferenceAndNoBorrow : Prop :=
  ∀ (x y : RegIx) (s : State), ∃ t, exec (.subn x y) s = .next t ∧
    writesResultThenFlag s t x ((256 + (s.getV y).toNat - (s.getV x).toNat) % 256)
      ((s.getV y).toNat ≥ (s.getV x).toNat)

/-- SHR: half the source, then VF = its bit 0; the source is Vy under the shift quirk, else Vx (R129). The order of
the two writes is D20 (log entry 14). -/
def Obligations.ShiftRightHalvesTheSource : Prop :=
  ∀ (x y : RegIx) (s : State), ∃ t, exec (.shr x y) s = .next t ∧
    (s.config.shiftQuirk = false →
      writesResultThenFlag s t x ((s.getV x).toNat / 2) ((s.getV x).toNat % 2 = 1)) ∧
    (s.config.shiftQuirk = true →
      writesResultThenFlag s t x ((s.getV y).toNat / 2) ((s.getV y).toNat % 2 = 1))

/-- SHL: twice the source modulo 256, then VF = its bit 7; the source is Vy under the shift quirk, else Vx (R131).
The order of the two writes is D20 (log entry 14). -/
def Obligations.ShiftLeftDoublesTheSource : Prop :=
  ∀ (x y : RegIx) (s : State), ∃ t, exec (.shl x y) s = .next t ∧
    (s.config.shiftQuirk = false →
      writesResultThenFlag s t x (2 * (s.getV x).toNat % 256) ((s.getV x).toNat / 128 = 1)) ∧
    (s.config.shiftQuirk = true →
      writesResultThenFlag s t x (2 * (s.getV y).toNat % 256) ((s.getV y).toNat / 128 = 1))

/-- LD I and LD F write I alone; the digit of LD F is not masked (R132, R155). The unmasked digit is the spec's
decision D22. -/
def Obligations.IndexLoadsWriteI : Prop :=
  ∀ (nnn : Addr12) (x : RegIx) (s : State),
    (∃ t, exec (.ldI nnn) s = .next t ∧ t = { s with i := t.i } ∧ t.i.toNat = nnn.toNat) ∧
    (∃ t, exec (.ldF x) s = .next t ∧ t = { s with i := t.i } ∧
      t.i.toNat = s.config.fontBase.toNat + 5 * (s.getV x).toNat)

/-- ADD I, Vx: the sum modulo 65536; VF is written only under `add_index_overflow_flag`, with 1 iff the sum exceeds
0xFFF (R133). What counts as overflow is general knowledge (K11, D8; log entry 13). -/
def Obligations.AddIndexSumAndOptionalFlag : Prop :=
  ∀ (x : RegIx) (s : State), ∃ t, exec (.addI x) s = .next t ∧ t = { s with i := t.i, v := t.v } ∧
    t.i.toNat = (s.i.toNat + (s.getV x).toNat) % 65536 ∧ (∀ k, k ≠ 15 → t.getV k = s.getV k) ∧
    t.getV 15 = if s.config.addIndexOverflowFlag then
        (if s.i.toNat + (s.getV x).toNat > 0xFFF then 1 else 0) else s.getV 15

/-- RND: Vx is the oracle's byte AND kk, so no bit outside kk is set; the draw is counted and nothing else changes
(R134). The byte is a free value: the statement holds for every draw. The counter is the model's (log entry 2). -/
def Obligations.RndMasksTheDraw : Prop :=
  ∀ (x : RegIx) (kk : Byte) (s : State), ∃ t, exec (.rnd x kk) s = .next t ∧
    t = { s with v := t.v, draws := s.draws + 1 } ∧ t.getV x = Config.draw s.draws &&& kk ∧
    t.getV x &&& ~~~kk = 0 ∧ ∀ k, k ≠ x → t.getV k = s.getV k

/-! ## Display -/

/-- CLS turns every cell off and changes nothing else, VF included (R151). The spec's decision D39. -/
def Obligations.ClsTurnsEveryCellOff : Prop :=
  ∀ s : State, ∃ t, exec .cls s = .next t ∧ t = { s with disp := t.disp } ∧ ∀ x y, t.cell x y = false

/-- DRW, the whole sprite at once: a cell toggles exactly if some sprite pixel falls on it under the edge policy, VF
is 1 exactly if such a cell was on and else 0, no other state changes; with a byte out of range it takes
MemoryOutOfRange instead (R152, R153, R154). The loop of the meaning refines this closed form. The bit order is
general knowledge (K8, D18; log entry 12), the edge policy D17, the operands' reading before the clear D19. -/
def Obligations.DrwTogglesExactlyTheSpriteCells : Prop :=
  ∀ (x y : RegIx) (n : Fin 16) (s : State),
    (n.val = 0 ∨ s.i.toNat + n.val ≤ 0x1000 → ∃ t, exec (.drw x y n) s = .next t ∧
      t = { s with v := t.v, disp := t.disp } ∧
      (∀ X Y, (spriteHits s x y n X Y → t.cell X Y = !s.cell X Y) ∧
        (¬ spriteHits s x y n X Y → t.cell X Y = s.cell X Y)) ∧
      ((∃ X Y, spriteHits s x y n X Y ∧ s.cell X Y = true) → t.getV 15 = 1) ∧
      ((¬ ∃ X Y, spriteHits s x y n X Y ∧ s.cell X Y = true) → t.getV 15 = 0) ∧
      ∀ k, k ≠ 15 → t.getV k = s.getV k) ∧
    (n.val ≠ 0 → 0x1000 < s.i.toNat + n.val →
      exec (.drw x y n) s = .next (faulted s .memoryOutOfRange (max s.i.toNat 0x1000)))

/-- Drawing the same sprite at the same place twice gives back the display (the collision property of
95_test_vectors.md L1.6). VF must not be a coordinate, since the first draw writes it. -/
def Obligations.DrawingTwiceRestoresTheDisplay : Prop :=
  ∀ (x y : RegIx) (n : Fin 16) (s t : State), x ≠ 15 → y ≠ 15 → s.i.toNat + n.val ≤ 0x1000 →
    exec (.drw x y n) s = .next t → ∃ u, exec (.drw x y n) t = .next u ∧ u.disp = s.disp

/-! ## Keys and timers -/

/-- SKP and SKNP skip by the level of the key Vx names, or take BadKeyIndex where it names none (R170, R171, R172).
BadKeyIndex is the spec's decision D23. -/
def Obligations.KeySkips : Prop :=
  ∀ (x : RegIx) (s : State),
    (∀ k : Fin 16, k.val = (s.getV x).toNat →
      exec (.skp x) s = .next (if s.keyDown k = true then { s with pc := s.pc + 2 } else s) ∧
      exec (.sknp x) s = .next (if s.keyDown k = false then { s with pc := s.pc + 2 } else s)) ∧
    (0xF < (s.getV x).toNat →
      exec (.skp x) s = .next (faulted s .badKeyIndex (s.getV x).toNat) ∧
      exec (.sknp x) s = .next (faulted s .badKeyIndex (s.getV x).toNat))

/-- LD Vx, K takes the least pressed key into Vx, or sets pc back to its own address (R173). -/
def Obligations.KeyWaitTakesTheLowestKeyOrReplays : Prop :=
  ∀ (x : RegIx) (s : State),
    (∀ k : Fin 16, s.keyDown k = true → (∀ j, j < k → s.keyDown j = false) →
      ∃ t, exec (.ldK x) s = .next t ∧ writesRegister s t x (BitVec.ofNat 8 k.val)) ∧
    ((∀ k, s.keyDown k = false) → exec (.ldK x) s = .next { s with pc := s.pc - 2 })

/-- A waiting core stays where it is: a cycle of LD Vx, K with no key down changes only the opcode register and,
under `per_cycle`, the timers, and leaves the core awaiting a key, to wait again (R40, R173, R218). The derived
operating state is the spec's decision D36 (log entry 15). -/
def Obligations.WaitingCycleStaysInPlace : Prop :=
  ∀ s : State, s.waits = true → ∃ t, step s = .next t ∧
    t = { s with opcode := wordAtPc s, dt := t.dt, st := t.st } ∧
    operatingState s t = .awaitingKey ∧ t.waits = true

/-- LD Vx, DT, LD DT, Vx and LD ST, Vx move the timer or the register and nothing else; the tick comes after
(R174, R175, R176). -/
def Obligations.TimerMoves : Prop :=
  ∀ (x : RegIx) (s : State),
    (∃ t, exec (.ldXDT x) s = .next t ∧ writesRegister s t x s.dt) ∧
    exec (.ldDT x) s = .next { s with dt := s.getV x } ∧
    exec (.ldST x) s = .next { s with st := s.getV x }

/-! ## Memory transfer -/

/-- LD B stores the hundreds, tens and ones of Vx at I, I+1, I+2 and changes nothing else; out of range it takes
MemoryOutOfRange (R190). The fault is the spec's decision D9. -/
def Obligations.BcdStoresThreeDigits : Prop :=
  ∀ (x : RegIx) (s : State),
    (s.i.toNat + 2 ≤ 0xFFF → ∃ t, exec (.ldB x) s = .next t ∧ t = { s with mem := t.mem } ∧
      (t.readByte s.i.toNat).toNat = (s.getV x).toNat / 100 ∧
      (t.readByte (s.i.toNat + 1)).toNat = (s.getV x).toNat / 10 % 10 ∧
      (t.readByte (s.i.toNat + 2)).toNat = (s.getV x).toNat % 10 ∧
      ∀ a, a < s.i.toNat ∨ s.i.toNat + 2 < a → t.readByte a = s.readByte a) ∧
    (0xFFF < s.i.toNat + 2 → exec (.ldB x) s = .next (faulted s .memoryOutOfRange (max s.i.toNat 0x1000)))

/-- LD [I], Vx stores V0..Vx from I on, advances I by x + 1 only under the quirk, and changes nothing else; out of
range it takes MemoryOutOfRange (R191, R193). The amount of the increment is general knowledge (K10, D7; log entry
13), the fault D9. -/
def Obligations.BlockStoreCopiesRegisters : Prop :=
  ∀ (x : RegIx) (s : State),
    (s.i.toNat + x.val ≤ 0xFFF → ∃ t, exec (.ldMemX x) s = .next t ∧ t = { s with mem := t.mem, i := t.i } ∧
      (∀ k, k ≤ x → t.readByte (s.i.toNat + k.val) = s.getV k) ∧
      (∀ a, a < s.i.toNat ∨ s.i.toNat + x.val < a → t.readByte a = s.readByte a) ∧
      t.i.toNat = if s.config.loadStoreQuirk then (s.i.toNat + x.val + 1) % 65536 else s.i.toNat) ∧
    (0xFFF < s.i.toNat + x.val →
      exec (.ldMemX x) s = .next (faulted s .memoryOutOfRange (max s.i.toNat 0x1000)))

/-- LD Vx, [I] loads V0..Vx from I on, advances I by x + 1 only under the quirk, and changes nothing else; out of
range it takes MemoryOutOfRange (R192, R193). The amount of the increment is general knowledge (K10, D7; log entry
13), the fault D9. -/
def Obligations.BlockLoadCopiesMemory : Prop :=
  ∀ (x : RegIx) (s : State),
    (s.i.toNat + x.val ≤ 0xFFF → ∃ t, exec (.ldXMem x) s = .next t ∧ t = { s with v := t.v, i := t.i } ∧
      (∀ k, k ≤ x → t.getV k = s.readByte (s.i.toNat + k.val)) ∧
      (∀ k, x < k → t.getV k = s.getV k) ∧
      t.i.toNat = if s.config.loadStoreQuirk then (s.i.toNat + x.val + 1) % 65536 else s.i.toNat) ∧
    (0xFFF < s.i.toNat + x.val →
      exec (.ldXMem x) s = .next (faulted s .memoryOutOfRange (max s.i.toNat 0x1000)))

/-- Store then load restores V0..Vx, whatever the registers held in between (95_test_vectors.md L1.2; the load/store
quirk off, so that I is where it was). -/
def Obligations.StoreThenLoadRestoresRegisters : Prop :=
  ∀ (x : RegIx) (s t : State) (between : Vector Byte 16), s.config.loadStoreQuirk = false →
    s.i.toNat + x.val ≤ 0xFFF → exec (.ldMemX x) s = .next t →
    ∃ u, exec (.ldXMem x) { t with v := between } = .next u ∧ u.i = s.i ∧ ∀ k, k ≤ x → u.getV k = s.getV k
end

