-- ==== Sys2Proof/Laws/Encoding.lean ====
section
/-! SUPPORT. The bits of each encoding form, and what each field extraction reads from each form. -/

namespace Sys2Proof

/-! ## Bits of the forms -/

theorem formNNN_bit (h : BitVec 4) (nnn : Addr12) (i : Nat) :
    (formNNN h nnn).getLsbD i = if i < 12 then nnn.getLsbD i else h.getLsbD (i - 12) := by
  rw [show (formNNN h nnn).getLsbD i = (h ++ nnn).getLsbD i from rfl, BitVec.getLsbD_append]

theorem formXKK_bit (h : BitVec 4) (x : RegIx) (kk : Byte) (i : Nat) :
    (formXKK h x kk).getLsbD i =
      if i < 8 then kk.getLsbD i else if i < 12 then (BitVec.ofFin (w := 4) x).getLsbD (i - 8)
      else h.getLsbD (i - 12) := by
  rw [show (formXKK h x kk).getLsbD i = (h ++ BitVec.ofFin (w := 4) x ++ kk).getLsbD i from rfl,
    BitVec.getLsbD_append]
  by_cases hi : i < 8
  · rw [if_pos hi, if_pos hi]
  · rw [if_neg hi, if_neg hi, BitVec.getLsbD_append]
    by_cases hj : i < 12
    · rw [if_pos (by omega), if_pos hj]
    · rw [if_neg (by omega), if_neg hj, Nat.sub_sub]

theorem formXYN_bit (h : BitVec 4) (x y : RegIx) (n : BitVec 4) (i : Nat) :
    (formXYN h x y n).getLsbD i =
      if i < 4 then n.getLsbD i else if i < 8 then (BitVec.ofFin (w := 4) y).getLsbD (i - 4)
      else if i < 12 then (BitVec.ofFin (w := 4) x).getLsbD (i - 8) else h.getLsbD (i - 12) := by
  rw [show (formXYN h x y n).getLsbD i =
    (h ++ BitVec.ofFin (w := 4) x ++ BitVec.ofFin (w := 4) y ++ n).getLsbD i from rfl, BitVec.getLsbD_append]
  by_cases hi : i < 4
  · rw [if_pos hi, if_pos hi]
  · rw [if_neg hi, if_neg hi, BitVec.getLsbD_append]
    by_cases hj : i < 8
    · rw [if_pos (by omega), if_pos hj]
    · rw [if_neg (by omega), if_neg hj, BitVec.getLsbD_append]
      by_cases hk : i < 12
      · rw [if_pos (by omega), if_pos hk, Nat.sub_sub]
      · rw [if_neg (by omega), if_neg hk, Nat.sub_sub, Nat.sub_sub]

theorem wordOfBytes_bit (first second : Byte) (i : Nat) :
    (wordOfBytes first second).getLsbD i = if i < 8 then second.getLsbD i else first.getLsbD (i - 8) := by
  rw [show (wordOfBytes first second).getLsbD i = (first ++ second).getLsbD i from rfl, BitVec.getLsbD_append]

/-! ## Fields of the forms -/

variable (h : BitVec 4) (nnn : Addr12) (x y : RegIx) (kk : Byte) (n : BitVec 4)

@[simp] theorem fieldN1_formNNN : fieldN1 (formNNN h nnn) = h := by
  apply BitVec.eq_of_getLsbD_eq; intro i hi
  rw [fieldN1, BitVec.getLsbD_extractLsb', formNNN_bit, if_neg (by omega)]
  simp [hi]

@[simp] theorem fieldNNN_formNNN : fieldNNN (formNNN h nnn) = nnn := by
  apply BitVec.eq_of_getLsbD_eq; intro i hi
  rw [fieldNNN, BitVec.getLsbD_extractLsb', formNNN_bit, if_pos (by omega)]
  simp [hi]

theorem fieldKK_formNNN : fieldKK (formNNN h nnn) = nnn.extractLsb' 0 8 := by
  apply BitVec.eq_of_getLsbD_eq; intro i hi
  rw [fieldKK, BitVec.getLsbD_extractLsb', formNNN_bit, if_pos (by omega), BitVec.getLsbD_extractLsb']

@[simp] theorem fieldN1_formXKK : fieldN1 (formXKK h x kk) = h := by
  apply BitVec.eq_of_getLsbD_eq; intro i hi
  rw [fieldN1, BitVec.getLsbD_extractLsb', formXKK_bit, if_neg (by omega), if_neg (by omega)]
  simp [hi]

@[simp] theorem fieldX_formXKK : fieldX (formXKK h x kk) = x := by
  have : (formXKK h x kk).extractLsb' 8 4 = BitVec.ofFin (w := 4) x := by
    apply BitVec.eq_of_getLsbD_eq; intro i hi
    rw [BitVec.getLsbD_extractLsb', formXKK_bit, if_neg (by omega), if_pos (by omega),
      show 8 + i - 8 = i by omega]
    simp only [hi, decide_true, Bool.true_and]
  rw [fieldX, this]

@[simp] theorem fieldKK_formXKK : fieldKK (formXKK h x kk) = kk := by
  apply BitVec.eq_of_getLsbD_eq; intro i hi
  rw [fieldKK, BitVec.getLsbD_extractLsb', formXKK_bit, if_pos (by omega)]
  simp [hi]

@[simp] theorem fieldN1_formXYN : fieldN1 (formXYN h x y n) = h := by
  apply BitVec.eq_of_getLsbD_eq; intro i hi
  rw [fieldN1, BitVec.getLsbD_extractLsb', formXYN_bit, if_neg (by omega), if_neg (by omega),
    if_neg (by omega)]
  simp [hi]

@[simp] theorem fieldX_formXYN : fieldX (formXYN h x y n) = x := by
  have : (formXYN h x y n).extractLsb' 8 4 = BitVec.ofFin (w := 4) x := by
    apply BitVec.eq_of_getLsbD_eq; intro i hi
    rw [BitVec.getLsbD_extractLsb', formXYN_bit, if_neg (by omega), if_neg (by omega), if_pos (by omega),
      show 8 + i - 8 = i by omega]
    simp only [hi, decide_true, Bool.true_and]
  rw [fieldX, this]

@[simp] theorem fieldY_formXYN : fieldY (formXYN h x y n) = y := by
  have : (formXYN h x y n).extractLsb' 4 4 = BitVec.ofFin (w := 4) y := by
    apply BitVec.eq_of_getLsbD_eq; intro i hi
    rw [BitVec.getLsbD_extractLsb', formXYN_bit, if_neg (by omega), if_pos (by omega),
      show 4 + i - 4 = i by omega]
    simp only [hi, decide_true, Bool.true_and]
  rw [fieldY, this]

@[simp] theorem fieldN_formXYN : fieldN (formXYN h x y n) = n := by
  apply BitVec.eq_of_getLsbD_eq; intro i hi
  rw [fieldN, BitVec.getLsbD_extractLsb', formXYN_bit, if_pos (by omega)]
  simp [hi]

/-! ## Masked forms, as opcode_table.json compares them -/

/-- The leading nibble of a word under the mask 0xF000. -/
theorem and_F000 (op : Word) : op &&& 0xF000#16 = fieldN1 op ++ 0#12 := by
  apply BitVec.eq_of_getLsbD_eq; intro i hi
  rw [show (fieldN1 op ++ 0#12).getLsbD i = _ from BitVec.getLsbD_append]
  rw [BitVec.getLsbD_and, fieldN1, BitVec.getLsbD_extractLsb']
  interval_cases i <;> simp

/-- The leading and the lowest nibble of a word under the mask 0xF00F. -/
theorem and_F00F (op : Word) : op &&& 0xF00F#16 = fieldN1 op ++ 0#8 ++ fieldN op := by
  apply BitVec.eq_of_getLsbD_eq; intro i hi
  rw [show (fieldN1 op ++ 0#8 ++ fieldN op).getLsbD i = _ from BitVec.getLsbD_append,
    BitVec.getLsbD_append, BitVec.getLsbD_and, fieldN1, fieldN, BitVec.getLsbD_extractLsb',
    BitVec.getLsbD_extractLsb']
  interval_cases i <;> simp

/-- The leading nibble and the low byte of a word under the mask 0xF0FF. -/
theorem and_F0FF (op : Word) : op &&& 0xF0FF#16 = fieldN1 op ++ 0#4 ++ fieldKK op := by
  apply BitVec.eq_of_getLsbD_eq; intro i hi
  rw [show (fieldN1 op ++ 0#4 ++ fieldKK op).getLsbD i = _ from BitVec.getLsbD_append,
    BitVec.getLsbD_append, BitVec.getLsbD_and, fieldN1, fieldKK, BitVec.getLsbD_extractLsb',
    BitVec.getLsbD_extractLsb']
  interval_cases i <;> simp

theorem formNNN_and_F000 : formNNN h nnn &&& 0xF000#16 = h ++ 0#12 := by rw [and_F000, fieldN1_formNNN]

theorem formXKK_and_F000 : formXKK h x kk &&& 0xF000#16 = h ++ 0#12 := by rw [and_F000, fieldN1_formXKK]

theorem formXYN_and_F000 : formXYN h x y n &&& 0xF000#16 = h ++ 0#12 := by rw [and_F000, fieldN1_formXYN]

theorem formXYN_and_F00F : formXYN h x y n &&& 0xF00F#16 = h ++ 0#8 ++ n := by
  rw [and_F00F, fieldN1_formXYN, fieldN_formXYN]

theorem formXKK_and_F0FF : formXKK h x kk &&& 0xF0FF#16 = h ++ 0#4 ++ kk := by
  rw [and_F0FF, fieldN1_formXKK, fieldKK_formXKK]

end Sys2Proof
end

