-- ==== Sys2Proof/Laws/Memory.lean ====
section
/-! SUPPORT. The laws of memory: a byte reads as written, a write leaves every other byte alone, and every memory
operation keeps the canonical form. The first two hold of every list, canonical or not. -/

namespace Sys2Proof.Machine

open Sys2Proof

variable (c : Config)

theorem Memory.read_insertCell (m : Memory) (a b : Nat) (w : Byte) (h : ∀ cell ∈ m, cell.1 ≠ a) :
    Memory.read c (Memory.insertCell a w m) b = if b = a then w else Memory.read c m b := by
  induction m with
  | nil => simp [Memory.insertCell, Memory.read]
  | cons cell rest ih =>
    obtain ⟨d, u⟩ := cell
    have hd : d ≠ a := h (d, u) (by simp)
    have ih := ih fun cell hc => h cell (by simp [hc])
    by_cases hlt : a < d
    · by_cases hb : b = a <;> simp [Memory.insertCell, Memory.read, hlt, hb]
    · by_cases hb : b = a
      · subst hb; simp [Memory.insertCell, Memory.read, hlt, Ne.symm hd, ih]
      · simp [Memory.insertCell, Memory.read, hlt, hb, ih]

theorem Memory.read_filter_ne (m : Memory) (a b : Nat) :
    Memory.read c (m.filter fun cell => cell.1 != a) b =
      if b = a then resetByte c a else Memory.read c m b := by
  induction m with
  | nil => by_cases h : b = a <;> simp [Memory.read, h]
  | cons cell rest ih =>
    obtain ⟨d, u⟩ := cell
    by_cases hd : d = a
    · subst hd
      by_cases hb : b = d
      · subst hb; simpa using ih
      · simp [Memory.read, hb, ih]
    · by_cases hb : b = a
      · subst hb; simp [Memory.read, hd, Ne.symm hd, ih]
      · simp [Memory.read, hd, ih, hb]

/-- Read after write: the byte written at its address, the old byte at any other. -/
@[simp] theorem Memory.read_write (m : Memory) (a b : Nat) (w : Byte) :
    Memory.read c (Memory.write c m a w) b = if b = a then w else Memory.read c m b := by
  unfold Memory.write
  by_cases hw : w = resetByte c a
  · simp only [hw, if_true, Memory.read_filter_ne]
  · simp only [hw, if_false]
    rw [Memory.read_insertCell c _ a b w (by simp), Memory.read_filter_ne]
    by_cases hb : b = a <;> simp [hb]

/-- Read after a block write: the byte of the block inside it, the old byte outside. -/
theorem Memory.read_writeBytes (ws : List Byte) (m : Memory) (a b : Nat) :
    Memory.read c (Memory.writeBytes c m a ws) b =
      if h : a ≤ b ∧ b - a < ws.length then ws[b - a]'h.2 else Memory.read c m b := by
  induction ws generalizing m a with
  | nil => simp [Memory.writeBytes]
  | cons w ws ih =>
    simp only [Memory.writeBytes, ih, List.length_cons, Memory.read_write]
    by_cases hab : a + 1 ≤ b
    · have e : b - a = (b - (a + 1)) + 1 := by omega
      by_cases hl : b - (a + 1) < ws.length
      · have : a ≤ b ∧ b - a < ws.length + 1 := by omega
        simp [hab, hl, this, e]
      · have h1 : ¬(b - a < ws.length + 1) := by omega
        have h2 : b ≠ a := by omega
        simp [hl, h1, h2]
    · by_cases hb : b = a
      · subst hb; simp
      · have h1 : ¬ a ≤ b := by omega
        simp [hab, h1, hb]

theorem Memory.mem_insertCell (m : Memory) (a : Nat) (w : Byte) (cell : Host.Cell) :
    cell ∈ Memory.insertCell a w m ↔ cell = (a, w) ∨ cell ∈ m := by
  induction m with
  | nil => simp [Memory.insertCell]
  | cons head rest ih =>
    obtain ⟨d, u⟩ := head
    by_cases h : a < d
    · simp [Memory.insertCell, h]
    · simp only [Memory.insertCell, h, if_false, List.mem_cons, ih]; tauto

theorem Memory.insertCell_rising (m : Memory) (a : Nat) (w : Byte) (h : ∀ cell ∈ m, cell.1 ≠ a)
    (hm : m.Pairwise fun p q => p.1 < q.1) :
    (Memory.insertCell a w m).Pairwise fun p q => p.1 < q.1 := by
  induction m with
  | nil => simp [Memory.insertCell]
  | cons head rest ih =>
    obtain ⟨d, u⟩ := head
    have hd : d ≠ a := h (d, u) (by simp)
    rw [List.pairwise_cons] at hm
    have ih := ih (fun cell hc => h cell (by simp [hc])) hm.2
    by_cases hlt : a < d
    · simp only [Memory.insertCell, hlt, if_true, List.pairwise_cons, List.mem_cons]
      refine ⟨?_, hm⟩
      rintro cell (rfl | hc)
      · exact hlt
      · exact lt_trans hlt (hm.1 cell hc)
    · simp only [Memory.insertCell, hlt, if_false, List.pairwise_cons]
      refine ⟨fun cell hc => ?_, ih⟩
      rcases (Memory.mem_insertCell rest a w cell).1 hc with rfl | hc
      · show d < a; omega
      · exact hm.1 cell hc

/-- A write inside the 4096 bytes keeps the canonical form. -/
theorem Memory.write_wf (m : Memory) (a : Nat) (w : Byte) (hm : Memory.wf c m) (ha : a < 4096) :
    Memory.wf c (Memory.write c m a w) := by
  have hr : (m.filter fun cell => cell.1 != a).Pairwise fun p q => p.1 < q.1 := hm.1.filter _
  have hc : ∀ cell ∈ m.filter (fun cell => cell.1 != a),
      cell.1 ≠ a ∧ cell.1 < 4096 ∧ cell.2 ≠ resetByte c cell.1 := by
    intro cell h
    rw [List.mem_filter] at h
    exact ⟨by simpa using h.2, hm.2 cell h.1⟩
  unfold Memory.write
  by_cases hw : w = resetByte c a
  · simp only [hw, if_true]; exact ⟨hr, fun cell h => (hc cell h).2⟩
  · simp only [hw, if_false]
    refine ⟨Memory.insertCell_rising _ a w (fun cell h => (hc cell h).1) hr, fun cell h => ?_⟩
    rcases (Memory.mem_insertCell _ a w cell).1 h with rfl | h
    · exact ⟨ha, hw⟩
    · exact (hc cell h).2

/-- A block write inside the 4096 bytes keeps the canonical form. -/
theorem Memory.writeBytes_wf (ws : List Byte) (m : Memory) (a : Nat) (hm : Memory.wf c m)
    (ha : a + ws.length ≤ 4096) : Memory.wf c (Memory.writeBytes c m a ws) := by
  induction ws generalizing m a with
  | nil => exact hm
  | cons w ws ih =>
    simp only [List.length_cons] at ha
    exact ih _ _ (Memory.write_wf c m a w hm (by omega)) (by omega)

/-- Memory with nothing listed is canonical. -/
theorem Memory.nil_wf : Memory.wf c [] := by simp [Memory.wf]

/-- A byte of a state's memory after a block write. -/
theorem State.readByte_writeBytes (s : State) (a b : Nat) (ws : List Byte) :
    (s.writeBytes a ws).readByte b =
      if h : a ≤ b ∧ b - a < ws.length then ws[b - a]'h.2 else s.readByte b :=
  Memory.read_writeBytes s.config ws s.mem a b

end Sys2Proof.Machine
end

