-- ==== Sys2Proof/Laws/State.lean ====
section
/-! SUPPORT. The small lemmas of State: for each named update, what every field is after it. All hold by rfl (`skipIf`
by cases), so no later proof unfolds a record update. -/

namespace Sys2Proof.Machine

open Sys2Proof

variable (s : State)

/-! ## setV -/

@[simp] theorem State.setV_config (x : RegIx) (b : Byte) : (s.setV x b).config = s.config := rfl
@[simp] theorem State.setV_v (x : RegIx) (b : Byte) : (s.setV x b).v = s.v.set x.val b x.isLt := rfl
@[simp] theorem State.setV_i (x : RegIx) (b : Byte) : (s.setV x b).i = s.i := rfl
@[simp] theorem State.setV_pc (x : RegIx) (b : Byte) : (s.setV x b).pc = s.pc := rfl
@[simp] theorem State.setV_sp (x : RegIx) (b : Byte) : (s.setV x b).sp = s.sp := rfl
@[simp] theorem State.setV_stack (x : RegIx) (b : Byte) : (s.setV x b).stack = s.stack := rfl
@[simp] theorem State.setV_dt (x : RegIx) (b : Byte) : (s.setV x b).dt = s.dt := rfl
@[simp] theorem State.setV_st (x : RegIx) (b : Byte) : (s.setV x b).st = s.st := rfl
@[simp] theorem State.setV_mem (x : RegIx) (b : Byte) : (s.setV x b).mem = s.mem := rfl
@[simp] theorem State.setV_disp (x : RegIx) (b : Byte) : (s.setV x b).disp = s.disp := rfl
@[simp] theorem State.setV_key (x : RegIx) (b : Byte) : (s.setV x b).key = s.key := rfl
@[simp] theorem State.setV_opcode (x : RegIx) (b : Byte) : (s.setV x b).opcode = s.opcode := rfl
@[simp] theorem State.setV_fault (x : RegIx) (b : Byte) : (s.setV x b).fault = s.fault := rfl
@[simp] theorem State.setV_draws (x : RegIx) (b : Byte) : (s.setV x b).draws = s.draws := rfl

/-! ## setI -/

@[simp] theorem State.setI_config (w : Word) : (s.setI w).config = s.config := rfl
@[simp] theorem State.setI_v (w : Word) : (s.setI w).v = s.v := rfl
@[simp] theorem State.setI_i (w : Word) : (s.setI w).i = w := rfl
@[simp] theorem State.setI_pc (w : Word) : (s.setI w).pc = s.pc := rfl
@[simp] theorem State.setI_sp (w : Word) : (s.setI w).sp = s.sp := rfl
@[simp] theorem State.setI_stack (w : Word) : (s.setI w).stack = s.stack := rfl
@[simp] theorem State.setI_dt (w : Word) : (s.setI w).dt = s.dt := rfl
@[simp] theorem State.setI_st (w : Word) : (s.setI w).st = s.st := rfl
@[simp] theorem State.setI_mem (w : Word) : (s.setI w).mem = s.mem := rfl
@[simp] theorem State.setI_disp (w : Word) : (s.setI w).disp = s.disp := rfl
@[simp] theorem State.setI_key (w : Word) : (s.setI w).key = s.key := rfl
@[simp] theorem State.setI_opcode (w : Word) : (s.setI w).opcode = s.opcode := rfl
@[simp] theorem State.setI_fault (w : Word) : (s.setI w).fault = s.fault := rfl
@[simp] theorem State.setI_draws (w : Word) : (s.setI w).draws = s.draws := rfl

/-! ## setPc -/

@[simp] theorem State.setPc_config (w : Word) : (s.setPc w).config = s.config := rfl
@[simp] theorem State.setPc_v (w : Word) : (s.setPc w).v = s.v := rfl
@[simp] theorem State.setPc_i (w : Word) : (s.setPc w).i = s.i := rfl
@[simp] theorem State.setPc_pc (w : Word) : (s.setPc w).pc = w := rfl
@[simp] theorem State.setPc_sp (w : Word) : (s.setPc w).sp = s.sp := rfl
@[simp] theorem State.setPc_stack (w : Word) : (s.setPc w).stack = s.stack := rfl
@[simp] theorem State.setPc_dt (w : Word) : (s.setPc w).dt = s.dt := rfl
@[simp] theorem State.setPc_st (w : Word) : (s.setPc w).st = s.st := rfl
@[simp] theorem State.setPc_mem (w : Word) : (s.setPc w).mem = s.mem := rfl
@[simp] theorem State.setPc_disp (w : Word) : (s.setPc w).disp = s.disp := rfl
@[simp] theorem State.setPc_key (w : Word) : (s.setPc w).key = s.key := rfl
@[simp] theorem State.setPc_opcode (w : Word) : (s.setPc w).opcode = s.opcode := rfl
@[simp] theorem State.setPc_fault (w : Word) : (s.setPc w).fault = s.fault := rfl
@[simp] theorem State.setPc_draws (w : Word) : (s.setPc w).draws = s.draws := rfl

/-! ## setDT -/

@[simp] theorem State.setDT_config (b : Byte) : (s.setDT b).config = s.config := rfl
@[simp] theorem State.setDT_v (b : Byte) : (s.setDT b).v = s.v := rfl
@[simp] theorem State.setDT_i (b : Byte) : (s.setDT b).i = s.i := rfl
@[simp] theorem State.setDT_pc (b : Byte) : (s.setDT b).pc = s.pc := rfl
@[simp] theorem State.setDT_sp (b : Byte) : (s.setDT b).sp = s.sp := rfl
@[simp] theorem State.setDT_stack (b : Byte) : (s.setDT b).stack = s.stack := rfl
@[simp] theorem State.setDT_dt (b : Byte) : (s.setDT b).dt = b := rfl
@[simp] theorem State.setDT_st (b : Byte) : (s.setDT b).st = s.st := rfl
@[simp] theorem State.setDT_mem (b : Byte) : (s.setDT b).mem = s.mem := rfl
@[simp] theorem State.setDT_disp (b : Byte) : (s.setDT b).disp = s.disp := rfl
@[simp] theorem State.setDT_key (b : Byte) : (s.setDT b).key = s.key := rfl
@[simp] theorem State.setDT_opcode (b : Byte) : (s.setDT b).opcode = s.opcode := rfl
@[simp] theorem State.setDT_fault (b : Byte) : (s.setDT b).fault = s.fault := rfl
@[simp] theorem State.setDT_draws (b : Byte) : (s.setDT b).draws = s.draws := rfl

/-! ## setST -/

@[simp] theorem State.setST_config (b : Byte) : (s.setST b).config = s.config := rfl
@[simp] theorem State.setST_v (b : Byte) : (s.setST b).v = s.v := rfl
@[simp] theorem State.setST_i (b : Byte) : (s.setST b).i = s.i := rfl
@[simp] theorem State.setST_pc (b : Byte) : (s.setST b).pc = s.pc := rfl
@[simp] theorem State.setST_sp (b : Byte) : (s.setST b).sp = s.sp := rfl
@[simp] theorem State.setST_stack (b : Byte) : (s.setST b).stack = s.stack := rfl
@[simp] theorem State.setST_dt (b : Byte) : (s.setST b).dt = s.dt := rfl
@[simp] theorem State.setST_st (b : Byte) : (s.setST b).st = b := rfl
@[simp] theorem State.setST_mem (b : Byte) : (s.setST b).mem = s.mem := rfl
@[simp] theorem State.setST_disp (b : Byte) : (s.setST b).disp = s.disp := rfl
@[simp] theorem State.setST_key (b : Byte) : (s.setST b).key = s.key := rfl
@[simp] theorem State.setST_opcode (b : Byte) : (s.setST b).opcode = s.opcode := rfl
@[simp] theorem State.setST_fault (b : Byte) : (s.setST b).fault = s.fault := rfl
@[simp] theorem State.setST_draws (b : Byte) : (s.setST b).draws = s.draws := rfl

/-! ## setKey -/

@[simp] theorem State.setKey_config (k : Fin 16) (b : Bool) : (s.setKey k b).config = s.config := rfl
@[simp] theorem State.setKey_v (k : Fin 16) (b : Bool) : (s.setKey k b).v = s.v := rfl
@[simp] theorem State.setKey_i (k : Fin 16) (b : Bool) : (s.setKey k b).i = s.i := rfl
@[simp] theorem State.setKey_pc (k : Fin 16) (b : Bool) : (s.setKey k b).pc = s.pc := rfl
@[simp] theorem State.setKey_sp (k : Fin 16) (b : Bool) : (s.setKey k b).sp = s.sp := rfl
@[simp] theorem State.setKey_stack (k : Fin 16) (b : Bool) : (s.setKey k b).stack = s.stack := rfl
@[simp] theorem State.setKey_dt (k : Fin 16) (b : Bool) : (s.setKey k b).dt = s.dt := rfl
@[simp] theorem State.setKey_st (k : Fin 16) (b : Bool) : (s.setKey k b).st = s.st := rfl
@[simp] theorem State.setKey_mem (k : Fin 16) (b : Bool) : (s.setKey k b).mem = s.mem := rfl
@[simp] theorem State.setKey_disp (k : Fin 16) (b : Bool) : (s.setKey k b).disp = s.disp := rfl
@[simp] theorem State.setKey_key (k : Fin 16) (b : Bool) : (s.setKey k b).key = s.key.set k.val b k.isLt := rfl
@[simp] theorem State.setKey_opcode (k : Fin 16) (b : Bool) : (s.setKey k b).opcode = s.opcode := rfl
@[simp] theorem State.setKey_fault (k : Fin 16) (b : Bool) : (s.setKey k b).fault = s.fault := rfl
@[simp] theorem State.setKey_draws (k : Fin 16) (b : Bool) : (s.setKey k b).draws = s.draws := rfl

/-! ## setFlag -/

@[simp] theorem State.setFlag_config (b : Bool) : (s.setFlag b).config = s.config := rfl
@[simp] theorem State.setFlag_i (b : Bool) : (s.setFlag b).i = s.i := rfl
@[simp] theorem State.setFlag_pc (b : Bool) : (s.setFlag b).pc = s.pc := rfl
@[simp] theorem State.setFlag_sp (b : Bool) : (s.setFlag b).sp = s.sp := rfl
@[simp] theorem State.setFlag_stack (b : Bool) : (s.setFlag b).stack = s.stack := rfl
@[simp] theorem State.setFlag_dt (b : Bool) : (s.setFlag b).dt = s.dt := rfl
@[simp] theorem State.setFlag_st (b : Bool) : (s.setFlag b).st = s.st := rfl
@[simp] theorem State.setFlag_mem (b : Bool) : (s.setFlag b).mem = s.mem := rfl
@[simp] theorem State.setFlag_disp (b : Bool) : (s.setFlag b).disp = s.disp := rfl
@[simp] theorem State.setFlag_key (b : Bool) : (s.setFlag b).key = s.key := rfl
@[simp] theorem State.setFlag_opcode (b : Bool) : (s.setFlag b).opcode = s.opcode := rfl
@[simp] theorem State.setFlag_fault (b : Bool) : (s.setFlag b).fault = s.fault := rfl
@[simp] theorem State.setFlag_draws (b : Bool) : (s.setFlag b).draws = s.draws := rfl

/-! ## setResultThenFlag -/

@[simp] theorem State.setResultThenFlag_config (x : RegIx) (b : Byte) (f : Bool) :
    (s.setResultThenFlag x b f).config = s.config := rfl
@[simp] theorem State.setResultThenFlag_i (x : RegIx) (b : Byte) (f : Bool) :
    (s.setResultThenFlag x b f).i = s.i := rfl
@[simp] theorem State.setResultThenFlag_pc (x : RegIx) (b : Byte) (f : Bool) :
    (s.setResultThenFlag x b f).pc = s.pc := rfl
@[simp] theorem State.setResultThenFlag_sp (x : RegIx) (b : Byte) (f : Bool) :
    (s.setResultThenFlag x b f).sp = s.sp := rfl
@[simp] theorem State.setResultThenFlag_stack (x : RegIx) (b : Byte) (f : Bool) :
    (s.setResultThenFlag x b f).stack = s.stack := rfl
@[simp] theorem State.setResultThenFlag_dt (x : RegIx) (b : Byte) (f : Bool) :
    (s.setResultThenFlag x b f).dt = s.dt := rfl
@[simp] theorem State.setResultThenFlag_st (x : RegIx) (b : Byte) (f : Bool) :
    (s.setResultThenFlag x b f).st = s.st := rfl
@[simp] theorem State.setResultThenFlag_mem (x : RegIx) (b : Byte) (f : Bool) :
    (s.setResultThenFlag x b f).mem = s.mem := rfl
@[simp] theorem State.setResultThenFlag_disp (x : RegIx) (b : Byte) (f : Bool) :
    (s.setResultThenFlag x b f).disp = s.disp := rfl
@[simp] theorem State.setResultThenFlag_key (x : RegIx) (b : Byte) (f : Bool) :
    (s.setResultThenFlag x b f).key = s.key := rfl
@[simp] theorem State.setResultThenFlag_opcode (x : RegIx) (b : Byte) (f : Bool) :
    (s.setResultThenFlag x b f).opcode = s.opcode := rfl
@[simp] theorem State.setResultThenFlag_fault (x : RegIx) (b : Byte) (f : Bool) :
    (s.setResultThenFlag x b f).fault = s.fault := rfl
@[simp] theorem State.setResultThenFlag_draws (x : RegIx) (b : Byte) (f : Bool) :
    (s.setResultThenFlag x b f).draws = s.draws := rfl

/-! ## writeBytes -/

@[simp] theorem State.writeBytes_config (a : Nat) (ws : List Byte) : (s.writeBytes a ws).config = s.config := rfl
@[simp] theorem State.writeBytes_v (a : Nat) (ws : List Byte) : (s.writeBytes a ws).v = s.v := rfl
@[simp] theorem State.writeBytes_i (a : Nat) (ws : List Byte) : (s.writeBytes a ws).i = s.i := rfl
@[simp] theorem State.writeBytes_pc (a : Nat) (ws : List Byte) : (s.writeBytes a ws).pc = s.pc := rfl
@[simp] theorem State.writeBytes_sp (a : Nat) (ws : List Byte) : (s.writeBytes a ws).sp = s.sp := rfl
@[simp] theorem State.writeBytes_stack (a : Nat) (ws : List Byte) : (s.writeBytes a ws).stack = s.stack := rfl
@[simp] theorem State.writeBytes_dt (a : Nat) (ws : List Byte) : (s.writeBytes a ws).dt = s.dt := rfl
@[simp] theorem State.writeBytes_st (a : Nat) (ws : List Byte) : (s.writeBytes a ws).st = s.st := rfl
@[simp] theorem State.writeBytes_mem (a : Nat) (ws : List Byte) :
    (s.writeBytes a ws).mem = Memory.writeBytes s.config s.mem a ws := rfl
@[simp] theorem State.writeBytes_disp (a : Nat) (ws : List Byte) : (s.writeBytes a ws).disp = s.disp := rfl
@[simp] theorem State.writeBytes_key (a : Nat) (ws : List Byte) : (s.writeBytes a ws).key = s.key := rfl
@[simp] theorem State.writeBytes_opcode (a : Nat) (ws : List Byte) : (s.writeBytes a ws).opcode = s.opcode := rfl
@[simp] theorem State.writeBytes_fault (a : Nat) (ws : List Byte) : (s.writeBytes a ws).fault = s.fault := rfl
@[simp] theorem State.writeBytes_draws (a : Nat) (ws : List Byte) : (s.writeBytes a ws).draws = s.draws := rfl

/-! ## takeFault -/

@[simp] theorem State.takeFault_config (k : FaultKind) (op p : Word) (info : Nat) :
    (s.takeFault k op p info).config = s.config := rfl
@[simp] theorem State.takeFault_v (k : FaultKind) (op p : Word) (info : Nat) :
    (s.takeFault k op p info).v = s.v := rfl
@[simp] theorem State.takeFault_i (k : FaultKind) (op p : Word) (info : Nat) :
    (s.takeFault k op p info).i = s.i := rfl
@[simp] theorem State.takeFault_pc (k : FaultKind) (op p : Word) (info : Nat) :
    (s.takeFault k op p info).pc = s.pc := rfl
@[simp] theorem State.takeFault_sp (k : FaultKind) (op p : Word) (info : Nat) :
    (s.takeFault k op p info).sp = s.sp := rfl
@[simp] theorem State.takeFault_stack (k : FaultKind) (op p : Word) (info : Nat) :
    (s.takeFault k op p info).stack = s.stack := rfl
@[simp] theorem State.takeFault_dt (k : FaultKind) (op p : Word) (info : Nat) :
    (s.takeFault k op p info).dt = s.dt := rfl
@[simp] theorem State.takeFault_st (k : FaultKind) (op p : Word) (info : Nat) :
    (s.takeFault k op p info).st = s.st := rfl
@[simp] theorem State.takeFault_mem (k : FaultKind) (op p : Word) (info : Nat) :
    (s.takeFault k op p info).mem = s.mem := rfl
@[simp] theorem State.takeFault_disp (k : FaultKind) (op p : Word) (info : Nat) :
    (s.takeFault k op p info).disp = s.disp := rfl
@[simp] theorem State.takeFault_key (k : FaultKind) (op p : Word) (info : Nat) :
    (s.takeFault k op p info).key = s.key := rfl
@[simp] theorem State.takeFault_opcode (k : FaultKind) (op p : Word) (info : Nat) :
    (s.takeFault k op p info).opcode = s.opcode := rfl
@[simp] theorem State.takeFault_fault (k : FaultKind) (op p : Word) (info : Nat) :
    (s.takeFault k op p info).fault = some { kind := k, opcode := op, pc := p, info } := rfl
@[simp] theorem State.takeFault_draws (k : FaultKind) (op p : Word) (info : Nat) :
    (s.takeFault k op p info).draws = s.draws := rfl

/-! ## raise -/

@[simp] theorem State.raise_config (k : FaultKind) (info : Nat) : (s.raise k info).config = s.config := rfl
@[simp] theorem State.raise_v (k : FaultKind) (info : Nat) : (s.raise k info).v = s.v := rfl
@[simp] theorem State.raise_i (k : FaultKind) (info : Nat) : (s.raise k info).i = s.i := rfl
@[simp] theorem State.raise_pc (k : FaultKind) (info : Nat) : (s.raise k info).pc = s.pc := rfl
@[simp] theorem State.raise_sp (k : FaultKind) (info : Nat) : (s.raise k info).sp = s.sp := rfl
@[simp] theorem State.raise_stack (k : FaultKind) (info : Nat) : (s.raise k info).stack = s.stack := rfl
@[simp] theorem State.raise_dt (k : FaultKind) (info : Nat) : (s.raise k info).dt = s.dt := rfl
@[simp] theorem State.raise_st (k : FaultKind) (info : Nat) : (s.raise k info).st = s.st := rfl
@[simp] theorem State.raise_mem (k : FaultKind) (info : Nat) : (s.raise k info).mem = s.mem := rfl
@[simp] theorem State.raise_disp (k : FaultKind) (info : Nat) : (s.raise k info).disp = s.disp := rfl
@[simp] theorem State.raise_key (k : FaultKind) (info : Nat) : (s.raise k info).key = s.key := rfl
@[simp] theorem State.raise_opcode (k : FaultKind) (info : Nat) : (s.raise k info).opcode = s.opcode := rfl
@[simp] theorem State.raise_fault (k : FaultKind) (info : Nat) :
    (s.raise k info).fault = some { kind := k, opcode := s.opcode, pc := s.pc - 2, info } := rfl
@[simp] theorem State.raise_draws (k : FaultKind) (info : Nat) : (s.raise k info).draws = s.draws := rfl

/-! ## tick -/

@[simp] theorem State.tick_config : (s.tick).config = s.config := rfl
@[simp] theorem State.tick_v : (s.tick).v = s.v := rfl
@[simp] theorem State.tick_i : (s.tick).i = s.i := rfl
@[simp] theorem State.tick_pc : (s.tick).pc = s.pc := rfl
@[simp] theorem State.tick_sp : (s.tick).sp = s.sp := rfl
@[simp] theorem State.tick_stack : (s.tick).stack = s.stack := rfl
@[simp] theorem State.tick_dt : (s.tick).dt = decTimer s.dt := rfl
@[simp] theorem State.tick_st : (s.tick).st = decTimer s.st := rfl
@[simp] theorem State.tick_mem : (s.tick).mem = s.mem := rfl
@[simp] theorem State.tick_disp : (s.tick).disp = s.disp := rfl
@[simp] theorem State.tick_key : (s.tick).key = s.key := rfl
@[simp] theorem State.tick_opcode : (s.tick).opcode = s.opcode := rfl
@[simp] theorem State.tick_fault : (s.tick).fault = s.fault := rfl
@[simp] theorem State.tick_draws : (s.tick).draws = s.draws := rfl

/-! ## beginExecute -/

@[simp] theorem State.beginExecute_config (op : Word) : (s.beginExecute op).config = s.config := rfl
@[simp] theorem State.beginExecute_v (op : Word) : (s.beginExecute op).v = s.v := rfl
@[simp] theorem State.beginExecute_i (op : Word) : (s.beginExecute op).i = s.i := rfl
@[simp] theorem State.beginExecute_pc (op : Word) : (s.beginExecute op).pc = s.pc + 2 := rfl
@[simp] theorem State.beginExecute_sp (op : Word) : (s.beginExecute op).sp = s.sp := rfl
@[simp] theorem State.beginExecute_stack (op : Word) : (s.beginExecute op).stack = s.stack := rfl
@[simp] theorem State.beginExecute_dt (op : Word) : (s.beginExecute op).dt = s.dt := rfl
@[simp] theorem State.beginExecute_st (op : Word) : (s.beginExecute op).st = s.st := rfl
@[simp] theorem State.beginExecute_mem (op : Word) : (s.beginExecute op).mem = s.mem := rfl
@[simp] theorem State.beginExecute_disp (op : Word) : (s.beginExecute op).disp = s.disp := rfl
@[simp] theorem State.beginExecute_key (op : Word) : (s.beginExecute op).key = s.key := rfl
@[simp] theorem State.beginExecute_opcode (op : Word) : (s.beginExecute op).opcode = op := rfl
@[simp] theorem State.beginExecute_fault (op : Word) : (s.beginExecute op).fault = s.fault := rfl
@[simp] theorem State.beginExecute_draws (op : Word) : (s.beginExecute op).draws = s.draws := rfl

/-! ## skipIf -/

theorem State.skipIf_eq (c : Bool) : s.skipIf c = s.setPc (if c then s.pc + 2 else s.pc) := by
  cases c <;> rfl

@[simp] theorem State.skipIf_config (c : Bool) : (s.skipIf c).config = s.config := by cases c <;> rfl
@[simp] theorem State.skipIf_v (c : Bool) : (s.skipIf c).v = s.v := by cases c <;> rfl
@[simp] theorem State.skipIf_i (c : Bool) : (s.skipIf c).i = s.i := by cases c <;> rfl
@[simp] theorem State.skipIf_pc (c : Bool) : (s.skipIf c).pc = if c then s.pc + 2 else s.pc := by
  cases c <;> rfl
@[simp] theorem State.skipIf_sp (c : Bool) : (s.skipIf c).sp = s.sp := by cases c <;> rfl
@[simp] theorem State.skipIf_stack (c : Bool) : (s.skipIf c).stack = s.stack := by cases c <;> rfl
@[simp] theorem State.skipIf_dt (c : Bool) : (s.skipIf c).dt = s.dt := by cases c <;> rfl
@[simp] theorem State.skipIf_st (c : Bool) : (s.skipIf c).st = s.st := by cases c <;> rfl
@[simp] theorem State.skipIf_mem (c : Bool) : (s.skipIf c).mem = s.mem := by cases c <;> rfl
@[simp] theorem State.skipIf_disp (c : Bool) : (s.skipIf c).disp = s.disp := by cases c <;> rfl
@[simp] theorem State.skipIf_key (c : Bool) : (s.skipIf c).key = s.key := by cases c <;> rfl
@[simp] theorem State.skipIf_opcode (c : Bool) : (s.skipIf c).opcode = s.opcode := by cases c <;> rfl
@[simp] theorem State.skipIf_fault (c : Bool) : (s.skipIf c).fault = s.fault := by cases c <;> rfl
@[simp] theorem State.skipIf_draws (c : Bool) : (s.skipIf c).draws = s.draws := by cases c <;> rfl

/-! ## drawByte -/

@[simp] theorem State.drawByte_byte : s.drawByte.1 = Config.draw s.draws := rfl
@[simp] theorem State.drawByte_draws : s.drawByte.2.draws = s.draws + 1 := rfl
@[simp] theorem State.getV_drawByte (k : RegIx) : s.drawByte.2.getV k = s.getV k := rfl
@[simp] theorem State.drawByte_config : s.drawByte.2.config = s.config := rfl
@[simp] theorem State.drawByte_v : s.drawByte.2.v = s.v := rfl
@[simp] theorem State.drawByte_i : s.drawByte.2.i = s.i := rfl
@[simp] theorem State.drawByte_pc : s.drawByte.2.pc = s.pc := rfl
@[simp] theorem State.drawByte_sp : s.drawByte.2.sp = s.sp := rfl
@[simp] theorem State.drawByte_stack : s.drawByte.2.stack = s.stack := rfl
@[simp] theorem State.drawByte_dt : s.drawByte.2.dt = s.dt := rfl
@[simp] theorem State.drawByte_st : s.drawByte.2.st = s.st := rfl
@[simp] theorem State.drawByte_mem : s.drawByte.2.mem = s.mem := rfl
@[simp] theorem State.drawByte_disp : s.drawByte.2.disp = s.disp := rfl
@[simp] theorem State.drawByte_key : s.drawByte.2.key = s.key := rfl
@[simp] theorem State.drawByte_opcode : s.drawByte.2.opcode = s.opcode := rfl
@[simp] theorem State.drawByte_fault : s.drawByte.2.fault = s.fault := rfl

/-! ## Registers across the other updates -/

@[simp] theorem State.getV_setI (k : RegIx) (w : Word) : (s.setI w).getV k = s.getV k := rfl
@[simp] theorem State.getV_setPc (k : RegIx) (w : Word) : (s.setPc w).getV k = s.getV k := rfl
@[simp] theorem State.getV_setDT (k : RegIx) (b : Byte) : (s.setDT b).getV k = s.getV k := rfl
@[simp] theorem State.getV_setST (k : RegIx) (b : Byte) : (s.setST b).getV k = s.getV k := rfl
@[simp] theorem State.getV_setKey (k : RegIx) (j : Fin 16) (b : Bool) : (s.setKey j b).getV k = s.getV k := rfl
@[simp] theorem State.getV_writeBytes (k : RegIx) (a : Nat) (ws : List Byte) : (s.writeBytes a ws).getV k = s.getV k := rfl
@[simp] theorem State.getV_raise (k : RegIx) (kind : FaultKind) (info : Nat) : (s.raise kind info).getV k = s.getV k := rfl
@[simp] theorem State.getV_tick (k : RegIx) : (s.tick).getV k = s.getV k := rfl
@[simp] theorem State.getV_beginExecute (k : RegIx) (op : Word) : (s.beginExecute op).getV k = s.getV k := rfl
@[simp] theorem State.getV_skipIf (k : RegIx) (c : Bool) : (s.skipIf c).getV k = s.getV k := by cases c <;> rfl

/-! ## Keys, cells and bytes across the other updates -/

@[simp] theorem State.keyDown_setV (k : Fin 16) (x : RegIx) (b : Byte) :
    (s.setV x b).keyDown k = s.keyDown k := rfl
@[simp] theorem State.keyDown_setI (k : Fin 16) (w : Word) :
    (s.setI w).keyDown k = s.keyDown k := rfl
@[simp] theorem State.keyDown_setPc (k : Fin 16) (w : Word) :
    (s.setPc w).keyDown k = s.keyDown k := rfl
@[simp] theorem State.keyDown_raise (k : Fin 16) (kind : FaultKind) (info : Nat) :
    (s.raise kind info).keyDown k = s.keyDown k := rfl
@[simp] theorem State.keyDown_tick (k : Fin 16) :
    (s.tick).keyDown k = s.keyDown k := rfl
@[simp] theorem State.keyDown_beginExecute (k : Fin 16) (op : Word) :
    (s.beginExecute op).keyDown k = s.keyDown k := rfl
@[simp] theorem State.cell_setV (cx : Fin 64) (cy : Fin 32) (x : RegIx) (b : Byte) :
    (s.setV x b).cell cx cy = s.cell cx cy := rfl
@[simp] theorem State.cell_setI (cx : Fin 64) (cy : Fin 32) (w : Word) :
    (s.setI w).cell cx cy = s.cell cx cy := rfl
@[simp] theorem State.cell_setPc (cx : Fin 64) (cy : Fin 32) (w : Word) :
    (s.setPc w).cell cx cy = s.cell cx cy := rfl
@[simp] theorem State.cell_raise (cx : Fin 64) (cy : Fin 32) (kind : FaultKind) (info : Nat) :
    (s.raise kind info).cell cx cy = s.cell cx cy := rfl
@[simp] theorem State.cell_tick (cx : Fin 64) (cy : Fin 32) :
    (s.tick).cell cx cy = s.cell cx cy := rfl
@[simp] theorem State.cell_beginExecute (cx : Fin 64) (cy : Fin 32) (op : Word) :
    (s.beginExecute op).cell cx cy = s.cell cx cy := rfl
@[simp] theorem State.readByte_setV (a : Nat) (x : RegIx) (b : Byte) :
    (s.setV x b).readByte a = s.readByte a := rfl
@[simp] theorem State.readByte_setI (a : Nat) (w : Word) :
    (s.setI w).readByte a = s.readByte a := rfl
@[simp] theorem State.readByte_setPc (a : Nat) (w : Word) :
    (s.setPc w).readByte a = s.readByte a := rfl
@[simp] theorem State.readByte_raise (a : Nat) (kind : FaultKind) (info : Nat) :
    (s.raise kind info).readByte a = s.readByte a := rfl
@[simp] theorem State.readByte_tick (a : Nat) :
    (s.tick).readByte a = s.readByte a := rfl
@[simp] theorem State.readByte_beginExecute (a : Nat) (op : Word) :
    (s.beginExecute op).readByte a = s.readByte a := rfl

/-! ## Reading what was written -/

/-- A register reads as written, and the others as before. -/
@[simp] theorem State.getV_setV (x k : RegIx) (b : Byte) :
    (s.setV x b).getV k = if k = x then b else s.getV k := by
  by_cases h : k = x
  · subst h; simp [State.getV]
  · have : x.val ≠ k.val := fun e => h (Fin.ext e.symm)
    simp [State.getV, h, this]

/-- VF reads as the flag, the others as before. -/
@[simp] theorem State.getV_setFlag (k : RegIx) (f : Bool) :
    (s.setFlag f).getV k = if k = VF then flagByte f else s.getV k :=
  State.getV_setV s VF k (flagByte f)

/-- The flag wins over the result where the destination is VF (R22, R120). -/
@[simp] theorem State.getV_setResultThenFlag (x k : RegIx) (b : Byte) (f : Bool) :
    (s.setResultThenFlag x b f).getV k = if k = VF then flagByte f else if k = x then b else s.getV k := by
  simp [State.setResultThenFlag]

/-- A key reads as set, and the others as before (R225). -/
@[simp] theorem State.keyDown_setKey (k j : Fin 16) (b : Bool) :
    (s.setKey k b).keyDown j = if j = k then b else s.keyDown j := by
  by_cases h : j = k
  · subst h; simp [State.keyDown]
  · have : k.val ≠ j.val := fun e => h (Fin.ext e.symm)
    simp [State.keyDown, h, this]

/-- A cell of a display with one cell toggled. -/
theorem toggleCell_get (d : Vector (Vector Bool 64) 32) (x x' : Fin 64) (y y' : Fin 32) :
    ((toggleCell d x y)[y'])[x'] = if x' = x ∧ y' = y then !(d[y'])[x'] else (d[y'])[x'] := by
  by_cases hy : y' = y
  · subst hy
    by_cases hx : x' = x
    · subst hx; simp [toggleCell]
    · have : x.val ≠ x'.val := fun e => hx (Fin.ext e.symm)
      simp [toggleCell, hx, this]
  · have : y.val ≠ y'.val := fun e => hy (Fin.ext e.symm)
    simp [toggleCell, hy, this]

/-- Every cell of the cleared display is off. -/
@[simp] theorem blankDisplay_get (x : Fin 64) (y : Fin 32) : (blankDisplay[y])[x] = false := by
  simp [blankDisplay]

/-- A core is halted exactly when it holds a fault record (R207). -/
theorem State.halted_iff : s.halted = true ↔ s.fault ≠ none := by
  rw [State.halted, Option.isSome_iff_ne_none]

theorem State.not_halted_iff : s.halted = false ↔ s.fault = none := by
  rw [State.halted, Option.isSome_eq_false_iff, Option.isNone_iff_eq_none]

end Sys2Proof.Machine
end

