-- ==== Sys2Proof/Laws/Ops.lean ====
section
/-! SUPPORT. One lemma per shared operation: everything it can answer. -/

namespace Sys2Proof.Machine

open Sys2Proof

/-- The range check passes exactly when all `n` addresses exist. -/
theorem firstOutOfRange_eq_none (a n : Nat) : firstOutOfRange a n = none ↔ n = 0 ∨ a + n ≤ 0x1000 := by
  unfold firstOutOfRange; split <;> simp_all

/-- Where the range check fails it names one of the `n` addresses, above 0xFFF, and no lower one is (R56). -/
theorem firstOutOfRange_eq_some (a n b : Nat) :
    firstOutOfRange a n = some b ↔ (a ≤ b ∧ b < a + n) ∧ 0xFFF < b ∧ ∀ b', a ≤ b' → 0xFFF < b' → b ≤ b' := by
  unfold firstOutOfRange
  split
  · constructor
    · simp
    · rintro ⟨h1, h2, -⟩; omega
  · simp only [Option.some.injEq]
    constructor
    · rintro rfl; refine ⟨by omega, by omega, fun b' h h' => by omega⟩
    · rintro ⟨h1, h2, h3⟩
      have := h3 (max a 0x1000) (by omega) (by omega)
      omega

/-- The failing range check in closed form. -/
theorem firstOutOfRange_of_exceeds {a n : Nat} (hn : n ≠ 0) (h : 0x1000 < a + n) :
    firstOutOfRange a n = some (max a 0x1000) := by
  unfold firstOutOfRange; rw [if_neg (by omega)]

theorem firstOutOfRange_of_fits {a n : Nat} (h : a + n ≤ 0x1000) : firstOutOfRange a n = none :=
  (firstOutOfRange_eq_none a n).2 (Or.inr h)

/-- What a fetch answers (R53, R56). -/
theorem State.fetch_cases (s : State) :
    (s.pc.toNat ≤ 0xFFE ∧ s.fetch = .ok (s.readByte s.pc.toNat ++ s.readByte (s.pc.toNat + 1))) ∨
    (0xFFE < s.pc.toNat ∧ s.fetch = .error (max s.pc.toNat 0x1000)) := by
  by_cases h : s.pc.toNat ≤ 0xFFE
  · left; refine ⟨h, ?_⟩
    simp [State.fetch, firstOutOfRange_of_fits (show s.pc.toNat + 2 ≤ 0x1000 by omega), wordOfBytes]
  · right; refine ⟨by omega, ?_⟩
    simp [State.fetch, firstOutOfRange_of_exceeds (show (2 : Nat) ≠ 0 by omega)
      (show 0x1000 < s.pc.toNat + 2 by omega)]

/-- What a push answers (R29). -/
theorem State.push_cases (s : State) (w : Word) :
    (∃ (h : s.sp.val < 16) (h' : s.sp.val + 1 < 17),
      s.push w = some { s with stack := s.stack.set s.sp.val w h, sp := ⟨s.sp.val + 1, h'⟩ }) ∨
    (s.sp.val = 16 ∧ s.push w = none) := by
  by_cases h : s.sp.val < 16
  · left; exact ⟨h, by omega, by simp [State.push, h]⟩
  · right; exact ⟨by omega, by simp [State.push, h]⟩

/-- What a pop answers (R29). -/
theorem State.pop_cases (s : State) :
    (∃ (h : s.sp.val - 1 < 16) (h' : s.sp.val - 1 < 17), 0 < s.sp.val ∧
      s.pop = some (s.stack[s.sp.val - 1]'h, { s with sp := ⟨s.sp.val - 1, h'⟩ })) ∨
    (s.sp.val = 0 ∧ s.pop = none) := by
  by_cases h : 0 < s.sp.val
  · left; exact ⟨by omega, by omega, h, by simp [State.pop, h]⟩
  · right; exact ⟨by omega, by simp [State.pop, h]⟩

/-- How a cycle ends: its fault is taken with everything else undone, or it retires (R86, R206). -/
theorem State.endCycle_cases (before after : State) :
    (∃ r, after.fault = some r ∧ before.endCycle after = { before with fault := some r }) ∨
    (after.fault = none ∧ before.endCycle after =
      if after.config.timerCoupling = .perCycle then after.tick else after) := by
  unfold State.endCycle
  cases hf : after.fault with
  | some r => left; exact ⟨r, rfl, rfl⟩
  | none =>
    right; refine ⟨rfl, ?_⟩
    cases hc : after.config.timerCoupling <;> simp

/-- What a cycle whose opcode has no handler leaves (R201). -/
theorem State.illegalOpcode_eq (s : State) (op : Word) :
    s.illegalOpcode op =
      { s with fault := some { kind := .illegalOpcode, opcode := op, pc := s.pc, info := op.toNat } } := by
  simp [State.illegalOpcode, State.endCycle]

/-- The key a byte names. -/
theorem keyOperand_cases (b : Byte) :
    (∃ h : b.toNat < 16, keyOperand b = some ⟨b.toNat, h⟩) ∨ (15 < b.toNat ∧ keyOperand b = none) := by
  by_cases h : b.toNat < 16
  · left; exact ⟨h, by simp [keyOperand, h]⟩
  · right; exact ⟨by omega, by simp [keyOperand, h]⟩

/-- The lowest pressed key: none is pressed, or it is pressed and no lower one is (R173). -/
theorem State.lowestKey_cases (s : State) :
    (∃ k, s.lowestKey = some k ∧ s.keyDown k = true ∧ ∀ j, j < k → s.keyDown j = false) ∨
    (s.lowestKey = none ∧ ∀ k, s.keyDown k = false) := by
  cases h : s.lowestKey with
  | none =>
    right; refine ⟨rfl, fun k => ?_⟩
    have := List.find?_eq_none.1 h k (List.mem_finRange k)
    simpa using this
  | some k =>
    left; refine ⟨k, rfl, ?_⟩
    obtain ⟨hk, i, hi, hik, hlt⟩ := List.find?_eq_some_iff_getElem.1 h
    refine ⟨hk, fun j hj => ?_⟩
    have hi16 : i < 16 := by simpa using hi
    have e : i = k.val := by have := congrArg Fin.val hik; simpa using this
    have hjl : j.val < i := by have := Fin.lt_def.1 hj; omega
    have := hlt j.val hjl
    simpa using this

end Sys2Proof.Machine
end

