-- ==== Sys2Proof/Laws/Operands.lean ====
section
/-! SUPPORT. One lemma per operand form and per flag: its value as a number. -/

namespace Sys2Proof.Machine

open Sys2Proof

variable (s : State)

/-! ## Operand forms -/

/-- An address field is zero-extended (R73). -/
theorem addrOperand_toNat (nnn : Addr12) : (addrOperand nnn).toNat = nnn.toNat := by
  rw [addrOperand, BitVec.toNat_setWidth]; have := nnn.isLt; omega

/-- A byte is zero-extended. -/
theorem byteOperand_toNat (b : Byte) : (byteOperand b).toNat = b.toNat := by
  rw [byteOperand, BitVec.toNat_setWidth]; have := b.isLt; omega

/-- The sum of JP V0 does not wrap and is not masked (R109). -/
theorem State.indexedTarget_toNat (nnn : Addr12) :
    (s.indexedTarget nnn).toNat = nnn.toNat + (s.getV 0).toNat := by
  rw [State.indexedTarget, BitVec.toNat_add, addrOperand_toNat, byteOperand_toNat]
  have := nnn.isLt; have := (s.getV 0).isLt; omega

/-- The glyph address does not wrap (R155). -/
theorem State.glyphAddress_toNat (b : Byte) :
    (s.glyphAddress b).toNat = s.config.fontBase.toNat + 5 * b.toNat := by
  rw [State.glyphAddress, BitVec.toNat_ofNat]
  have := s.config.fontBase.isLt; have := b.isLt; omega

/-- I after a block transfer (R191, R192). -/
theorem State.indexAfterTransfer_toNat (x : RegIx) :
    (s.indexAfterTransfer x).toNat =
      if s.config.loadStoreQuirk then (s.i.toNat + x.val + 1) % 65536 else s.i.toNat := by
  unfold State.indexAfterTransfer
  split
  · rw [BitVec.toNat_add, BitVec.toNat_ofNat]; have := x.isLt; omega
  · rfl

/-- A block from I is in range when its last byte is (R56). -/
theorem State.blockFault_of_fits {n : Nat} (h : s.i.toNat + n ≤ 0x1000) : s.blockFault n = none :=
  firstOutOfRange_of_fits h

/-- A block from I that leaves memory reports its first address that does (R56). -/
theorem State.blockFault_of_exceeds {n : Nat} (hn : n ≠ 0) (h : 0x1000 < s.i.toNat + n) :
    s.blockFault n = some (max s.i.toNat 0x1000) :=
  firstOutOfRange_of_exceeds hn h

@[simp] theorem State.readBytes_length (a n : Nat) : (s.readBytes a n).length = n := by
  simp [State.readBytes]

@[simp] theorem State.readBytes_get (a n k : Nat) (h : k < (s.readBytes a n).length) :
    (s.readBytes a n)[k] = s.readByte (a + k) := by
  simp [State.readBytes]

@[simp] theorem State.regsUpTo_length (x : RegIx) : (s.regsUpTo x).length = x.val + 1 := by
  have := x.isLt; simp [State.regsUpTo]

theorem State.regsUpTo_get (x k : RegIx) (h : k.val < (s.regsUpTo x).length) :
    (s.regsUpTo x)[k.val] = s.getV k := by
  simp [State.regsUpTo, State.getV]

theorem State.regsFromMemory_get (x k : RegIx) :
    (s.regsFromMemory x)[k] = if k ≤ x then s.readByte (s.i.toNat + k.val) else s.getV k := by
  simp [State.regsFromMemory, State.base]

/-- The three digits as numbers (R190). -/
theorem bcdDigits_toNat (b : Byte) :
    (bcdDigits b).map BitVec.toNat = [b.toNat / 100, b.toNat / 10 % 10, b.toNat % 10] := by
  simp [bcdDigits]

/-! ## Sprites -/

/-- Which pixel falls on which cell (R153). -/
theorem place_eq_some (edge : DrawEdge) (px py : Nat) (X : Fin 64) (Y : Fin 32) :
    place edge px py = some (X, Y) ↔
      match edge with
      | .wrap => px % 64 = X.val ∧ py % 32 = Y.val
      | .clip => px = X.val ∧ py = Y.val := by
  cases edge with
  | wrap => simp [place, Fin.ext_iff, Fin.ofNat]
  | clip =>
    simp only [place]
    split
    · simp [Fin.ext_iff]
    · have := X.isLt; have := Y.isLt
      constructor
      · intro h; cases h
      · rintro ⟨h1, h2⟩; omega

/-- The cells of one sprite row (R153). -/
theorem mem_rowCells (edge : DrawEdge) (x0 py : Nat) (row : Byte) (p : Fin 64 × Fin 32) :
    p ∈ rowCells edge x0 py row ↔
      ∃ c, c < 8 ∧ row.getLsbD (7 - c) = true ∧ place edge (x0 + c) py = some p := by
  simp only [rowCells, List.mem_filterMap, List.mem_range]
  constructor
  · rintro ⟨c, hc, h⟩
    by_cases hb : row.getLsbD (7 - c) = true
    · rw [if_pos hb] at h; exact ⟨c, hc, hb, h⟩
    · rw [if_neg hb] at h; cases h
  · rintro ⟨c, hc, hb, h⟩; exact ⟨c, hc, by rw [if_pos hb]; exact h⟩

/-- The cells of a sprite, row by row (R152). -/
theorem mem_spriteCells (edge : DrawEdge) (x0 : Nat) (rows : List Byte) (y0 : Nat) (p : Fin 64 × Fin 32) :
    p ∈ spriteCells edge x0 y0 rows ↔
      ∃ r, ∃ h : r < rows.length, p ∈ rowCells edge x0 (y0 + r) rows[r] := by
  induction rows generalizing y0 with
  | nil => simp [spriteCells]
  | cons row rows ih =>
    rw [spriteCells, List.mem_append, ih]
    constructor
    · rintro (h | ⟨r, hr, h⟩)
      · exact ⟨0, by simp, by simpa using h⟩
      · exact ⟨r + 1, by simpa using hr, by simpa [Nat.add_assoc, Nat.add_comm 1] using h⟩
    · rintro ⟨r, hr, h⟩
      cases r with
      | zero => left; simpa using h
      | succ r => right; exact ⟨r, by simpa using hr, by simpa [Nat.add_assoc, Nat.add_comm 1] using h⟩

/-- One pixel's XOR: its cell toggles, and the flag is set if it was on (R152, R154). -/
theorem xorPixel_spec (acc : Vector (Vector Bool 64) 32 × Bool) (x x' : Fin 64) (y y' : Fin 32) :
    (((xorPixel acc (x, y)).1[y'])[x'] =
      if x' = x ∧ y' = y then !(acc.1[y'])[x'] else (acc.1[y'])[x']) ∧
    (xorPixel acc (x, y)).2 = (acc.2 || (acc.1[y])[x]) :=
  ⟨toggleCell_get acc.1 x x' y y', rfl⟩

/-! ## Flags -/

@[simp] theorem flagByte_true : flagByte true = 1 := rfl

@[simp] theorem flagByte_false : flagByte false = 0 := rfl

theorem carryFlag_eq_true (a b : Byte) : carryFlag a b = true ↔ a.toNat + b.toNat > 0xFF := by
  simp [carryFlag]

theorem noBorrowFlag_eq_true (a b : Byte) : noBorrowFlag a b = true ↔ a.toNat ≥ b.toNat := by
  simp [noBorrowFlag]

theorem shiftedOutRight_eq_true (b : Byte) : shiftedOutRight b = true ↔ b.toNat % 2 = 1 := by
  simp [shiftedOutRight, BitVec.getLsbD, Nat.testBit_zero]

theorem shiftedOutLeft_eq_true (b : Byte) : shiftedOutLeft b = true ↔ b.toNat / 128 = 1 := by
  revert b; decide

theorem indexOverflowFlag_eq_true (i : Word) (b : Byte) :
    indexOverflowFlag i b = true ↔ i.toNat + b.toNat > 0xFFF := by
  simp [indexOverflowFlag]

end Sys2Proof.Machine
end

