-- ==== Sys2Proof/Laws/Exec.lean ====
section
/-! SUPPORT. What every meaning has in common: it answers a next state, and that state either is a raised fault with
nothing else written or keeps the fault field. -/

namespace Sys2Proof.Machine

open Sys2Proof

/-- No instruction is refused or stops the model. -/
theorem exec_next (i : Instr) (s : State) : ∃ t, exec i s = .next t := by
  cases i <;> simp only [exec]
  case sys => unfold execSys; split <;> exact ⟨_, rfl⟩
  case ret => unfold execRet; split <;> exact ⟨_, rfl⟩
  case call => unfold execCall; split <;> exact ⟨_, rfl⟩
  case skp => unfold execSkp; split <;> exact ⟨_, rfl⟩
  case sknp => unfold execSknp; split <;> exact ⟨_, rfl⟩
  case ldK => unfold execLdK; split <;> exact ⟨_, rfl⟩
  case ldB => unfold execLdB; split <;> exact ⟨_, rfl⟩
  case ldMemX => unfold execLdMemX; split <;> exact ⟨_, rfl⟩
  case ldXMem => unfold execLdXMem; split <;> exact ⟨_, rfl⟩
  case drw => unfold execDrw; split <;> exact ⟨_, rfl⟩
  all_goals exact ⟨_, rfl⟩

/-- An instruction raises a fault and writes nothing else, or it leaves the fault field alone (R206, R210). -/
theorem exec_raises_or_keeps_fault {i : Instr} {s t : State} (h : exec i s = .next t) :
    (∃ kind info, t = s.raise kind info) ∨ t.fault = s.fault := by
  cases i <;> simp only [exec] at h
  case sys => unfold execSys at h; split at h <;> cases h; exacts [.inl ⟨_, _, rfl⟩, .inr rfl]
  case ret =>
    unfold execRet at h; rcases s.pop_cases with ⟨_, _, _, e⟩ | ⟨_, e⟩ <;> rw [e] at h <;> cases h
    exacts [.inr rfl, .inl ⟨_, _, rfl⟩]
  case call =>
    unfold execCall at h; rcases s.push_cases s.pc with ⟨_, _, e⟩ | ⟨_, e⟩ <;> rw [e] at h <;> cases h
    exacts [.inr rfl, .inl ⟨_, _, rfl⟩]
  case skp => unfold execSkp at h; split at h <;> cases h; exacts [.inr (by simp), .inl ⟨_, _, rfl⟩]
  case sknp => unfold execSknp at h; split at h <;> cases h; exacts [.inr (by simp), .inl ⟨_, _, rfl⟩]
  case ldK => unfold execLdK at h; split at h <;> cases h <;> exact .inr rfl
  case ldB => unfold execLdB at h; split at h <;> cases h; exacts [.inl ⟨_, _, rfl⟩, .inr rfl]
  case ldMemX => unfold execLdMemX at h; split at h <;> cases h; exacts [.inl ⟨_, _, rfl⟩, .inr rfl]
  case ldXMem => unfold execLdXMem at h; split at h <;> cases h; exacts [.inl ⟨_, _, rfl⟩, .inr rfl]
  case drw => unfold execDrw at h; split at h <;> cases h; exacts [.inl ⟨_, _, rfl⟩, .inr rfl]
  case addI => cases h; right; split <;> rfl
  case seImm => cases h; right; simp
  case sneImm => cases h; right; simp
  case seReg => cases h; right; simp
  case sneReg => cases h; right; simp
  all_goals cases h; exact .inr rfl

end Sys2Proof.Machine
end

