-- ==== Sys2Proof/Laws/PerInstr.lean ====
section
/-! SUPPORT. Statements made per instruction. `EncodingInTable`: the encoding of the instruction is a word of its row
of opcode_table.json (its bits under the row's "mask" are the row's "match"). -/

namespace Sys2Proof.Laws

open Sys2Proof

/-- The encoding of `i` matches the row of `i` in opcode_table.json. -/
def EncodingInTable.Statement (i : Instr) : Prop := encode i &&& (tableRow i).1 = (tableRow i).2

theorem EncodingInTable.sys (nnn : Addr12) : EncodingInTable.Statement (.sys nnn) :=
  (formNNN_and_F000 _ _).trans rfl

theorem EncodingInTable.cls : EncodingInTable.Statement .cls := rfl

theorem EncodingInTable.ret : EncodingInTable.Statement .ret := rfl

theorem EncodingInTable.jp (nnn : Addr12) : EncodingInTable.Statement (.jp nnn) :=
  (formNNN_and_F000 _ _).trans rfl

theorem EncodingInTable.call (nnn : Addr12) : EncodingInTable.Statement (.call nnn) :=
  (formNNN_and_F000 _ _).trans rfl

theorem EncodingInTable.seImm (x : RegIx) (kk : Byte) : EncodingInTable.Statement (.seImm x kk) :=
  (formXKK_and_F000 _ _ _).trans rfl

theorem EncodingInTable.sneImm (x : RegIx) (kk : Byte) : EncodingInTable.Statement (.sneImm x kk) :=
  (formXKK_and_F000 _ _ _).trans rfl

theorem EncodingInTable.seReg (x : RegIx) (y : RegIx) : EncodingInTable.Statement (.seReg x y) :=
  (formXYN_and_F000 _ _ _ _).trans rfl

theorem EncodingInTable.ldImm (x : RegIx) (kk : Byte) : EncodingInTable.Statement (.ldImm x kk) :=
  (formXKK_and_F000 _ _ _).trans rfl

theorem EncodingInTable.addImm (x : RegIx) (kk : Byte) : EncodingInTable.Statement (.addImm x kk) :=
  (formXKK_and_F000 _ _ _).trans rfl

theorem EncodingInTable.ldReg (x : RegIx) (y : RegIx) : EncodingInTable.Statement (.ldReg x y) :=
  (formXYN_and_F00F _ _ _ _).trans rfl

theorem EncodingInTable.or (x : RegIx) (y : RegIx) : EncodingInTable.Statement (.or x y) :=
  (formXYN_and_F00F _ _ _ _).trans rfl

theorem EncodingInTable.and (x : RegIx) (y : RegIx) : EncodingInTable.Statement (.and x y) :=
  (formXYN_and_F00F _ _ _ _).trans rfl

theorem EncodingInTable.xor (x : RegIx) (y : RegIx) : EncodingInTable.Statement (.xor x y) :=
  (formXYN_and_F00F _ _ _ _).trans rfl

theorem EncodingInTable.addReg (x : RegIx) (y : RegIx) : EncodingInTable.Statement (.addReg x y) :=
  (formXYN_and_F00F _ _ _ _).trans rfl

theorem EncodingInTable.sub (x : RegIx) (y : RegIx) : EncodingInTable.Statement (.sub x y) :=
  (formXYN_and_F00F _ _ _ _).trans rfl

theorem EncodingInTable.shr (x : RegIx) (y : RegIx) : EncodingInTable.Statement (.shr x y) :=
  (formXYN_and_F00F _ _ _ _).trans rfl

theorem EncodingInTable.subn (x : RegIx) (y : RegIx) : EncodingInTable.Statement (.subn x y) :=
  (formXYN_and_F00F _ _ _ _).trans rfl

theorem EncodingInTable.shl (x : RegIx) (y : RegIx) : EncodingInTable.Statement (.shl x y) :=
  (formXYN_and_F00F _ _ _ _).trans rfl

theorem EncodingInTable.sneReg (x : RegIx) (y : RegIx) : EncodingInTable.Statement (.sneReg x y) :=
  (formXYN_and_F000 _ _ _ _).trans rfl

theorem EncodingInTable.ldI (nnn : Addr12) : EncodingInTable.Statement (.ldI nnn) :=
  (formNNN_and_F000 _ _).trans rfl

theorem EncodingInTable.jpV0 (nnn : Addr12) : EncodingInTable.Statement (.jpV0 nnn) :=
  (formNNN_and_F000 _ _).trans rfl

theorem EncodingInTable.rnd (x : RegIx) (kk : Byte) : EncodingInTable.Statement (.rnd x kk) :=
  (formXKK_and_F000 _ _ _).trans rfl

theorem EncodingInTable.drw (x : RegIx) (y : RegIx) (n : Fin 16) : EncodingInTable.Statement (.drw x y n) :=
  (formXYN_and_F000 _ _ _ _).trans rfl

theorem EncodingInTable.skp (x : RegIx) : EncodingInTable.Statement (.skp x) :=
  (formXKK_and_F0FF _ _ _).trans rfl

theorem EncodingInTable.sknp (x : RegIx) : EncodingInTable.Statement (.sknp x) :=
  (formXKK_and_F0FF _ _ _).trans rfl

theorem EncodingInTable.ldXDT (x : RegIx) : EncodingInTable.Statement (.ldXDT x) :=
  (formXKK_and_F0FF _ _ _).trans rfl

theorem EncodingInTable.ldK (x : RegIx) : EncodingInTable.Statement (.ldK x) :=
  (formXKK_and_F0FF _ _ _).trans rfl

theorem EncodingInTable.ldDT (x : RegIx) : EncodingInTable.Statement (.ldDT x) :=
  (formXKK_and_F0FF _ _ _).trans rfl

theorem EncodingInTable.ldST (x : RegIx) : EncodingInTable.Statement (.ldST x) :=
  (formXKK_and_F0FF _ _ _).trans rfl

theorem EncodingInTable.addI (x : RegIx) : EncodingInTable.Statement (.addI x) :=
  (formXKK_and_F0FF _ _ _).trans rfl

theorem EncodingInTable.ldF (x : RegIx) : EncodingInTable.Statement (.ldF x) :=
  (formXKK_and_F0FF _ _ _).trans rfl

theorem EncodingInTable.ldB (x : RegIx) : EncodingInTable.Statement (.ldB x) :=
  (formXKK_and_F0FF _ _ _).trans rfl

theorem EncodingInTable.ldMemX (x : RegIx) : EncodingInTable.Statement (.ldMemX x) :=
  (formXKK_and_F0FF _ _ _).trans rfl

theorem EncodingInTable.ldXMem (x : RegIx) : EncodingInTable.Statement (.ldXMem x) :=
  (formXKK_and_F0FF _ _ _).trans rfl

end Sys2Proof.Laws
end

