-- ==== Sys2Proof/Laws/Step.lean ====
section
/-! SUPPORT. Everything one step can do, said once: the four ways a cycle goes. -/

namespace Sys2Proof.Machine

open Sys2Proof

/-- A step that answers `t` was called halted, faulted in its fetch, met an illegal opcode, or executed one
instruction (R87, R88). -/
theorem step_cases {s t : State} (h : step s = .next t) :
    (s.halted = true ∧ t = s) ∨
    (s.halted = false ∧ 0xFFE < s.pc.toNat ∧
      t = s.takeFault .memoryOutOfRange 0 s.pc (max s.pc.toNat 0x1000)) ∨
    (s.halted = false ∧ ∃ op e, s.fetch = .ok op ∧ decode op = .error e ∧
      t = s.takeFault .illegalOpcode op s.pc op.toNat) ∨
    (s.halted = false ∧ ∃ op i u, s.fetch = .ok op ∧ decode op = .ok i ∧
      exec i (s.beginExecute op) = .next u ∧ t = s.endCycle u) := by
  unfold step at h
  by_cases hh : s.halted = true
  · left; rw [if_pos hh] at h; exact ⟨hh, (Host.Outcome.next.inj h).symm⟩
  have hh : s.halted = false := by simpa using hh
  rw [hh] at h
  simp only [Bool.false_eq_true, if_false, runCycle] at h
  rcases s.fetch_cases with ⟨-, hf⟩ | ⟨hpc, hf⟩ <;> rw [hf] at h
  · cases hd : decode (s.readByte s.pc.toNat ++ s.readByte (s.pc.toNat + 1)) with
    | error e =>
      simp only [hd, State.illegalOpcode_eq] at h
      right; right; left
      exact ⟨hh, _, e, hf, hd, (Host.Outcome.next.inj h).symm⟩
    | ok i =>
      simp only [hd] at h
      right; right; right
      cases he : exec i (s.beginExecute (s.readByte s.pc.toNat ++ s.readByte (s.pc.toNat + 1))) with
      | next u =>
        rw [he] at h
        exact ⟨hh, _, i, u, hf, hd, he, (Host.Outcome.next.inj h).symm⟩
      | fault f => rw [he] at h; cases h
      | refused r => rw [he] at h; cases h
  · right; left; exact ⟨hh, hpc, (Host.Outcome.next.inj h).symm⟩

end Sys2Proof.Machine
end

