-- ==== Sys2Proof/Tests/Slice0.lean ====
section
/-! SUPPORT. The model's own tests: ill-formed terms refused, every constructor decoded from a word written out from
30_encoding.md R72 to R79, single steps whose expected results stand in 95_test_vectors.md, and one named witness for
the hypotheses of each statement of Certificates/Slice0/Obligations.lean. -/

set_option Elab.async false

namespace Sys2Proof.Tests

open Sys2Proof Sys2Proof.Machine Sys2Proof.Claims

/-! ## Helpers -/

/-- The reset state with some registers set. -/
def regs (l : List (RegIx × Byte)) (s : State := State.reset) : State := l.foldl (fun s p => s.setV p.1 p.2) s

/-- A freshly constructed machine whose configuration differs from the default as `f` says. -/
def machine (f : Config → Config) : State := State.construct (f Config.default)

/-- The state after one step of `s` with the word `w` at pc. -/
def run1 (w : Nat) (s : State) : Option State :=
  match step (s.withFetchWord 16 w) with
  | .next t => some t
  | .fault _ => none
  | .refused _ => none

/-- A display with one cell on. -/
def oneCell (x : Fin 64) (y : Fin 32) (s : State) : State := { s with disp := toggleCell s.disp x y }

/-- A step or an instruction that answers a state, and what is decided of that state. -/
def answers (o : Host.Outcome State Fault Refusal) (p : State → Bool) : Bool :=
  match o with
  | .next t => p t
  | .fault _ => false
  | .refused _ => false

theorem next_of_answers {o : Host.Outcome State Fault Refusal} {p : State → Prop} [DecidablePred p]
    (h : answers o (fun t => decide (p t)) = true) : ∃ t, o = .next t ∧ p t := by
  cases o with
  | next t => exact ⟨t, rfl, by simpa [answers] using h⟩
  | fault f => cases h
  | refused r => cases h

/-! ## WellFormed: the ill-formed terms -/

/-- R76: 0x0E0 is CLS's word with bits 11..8 zero, not a SYS address; so is 0x1E0. -/
theorem test_wellFormed_refuses_sys_with_cls_key :
    (Instr.sys 0x0E0).wellFormed = false ∧ (Instr.sys 0x1E0).wellFormed = false := by decide

/-- R76: nor is 0x0EE, RET's. -/
theorem test_wellFormed_refuses_sys_with_ret_key :
    (Instr.sys 0x0EE).wellFormed = false ∧ (Instr.sys 0xFEE).wellFormed = false := by decide

theorem test_wellFormed_accepts_other_sys : (Instr.sys 0x123).wellFormed = true := by decide

/-! ## Decode: every constructor from a word written out nibble by nibble (R72, R75 to R79) -/

/-- R76. -/
theorem test_decode_family_0 :
    decode 0b0000000100100011 = .ok (.sys 0x123) ∧ decode 0b0000000011100000 = .ok .cls ∧
    decode 0b0000000011101110 = .ok .ret := by decide

/-- R75: the control flow instructions of one nibble. -/
theorem test_decode_control_flow :
    decode 0b0001001000110100 = .ok (.jp 0x234) ∧ decode 0b0010001000010000 = .ok (.call 0x210) ∧
    decode 0b0011001101000010 = .ok (.seImm 3 0x42) ∧ decode 0b0100001101000010 = .ok (.sneImm 3 0x42) ∧
    decode 0b0101000100100000 = .ok (.seReg 1 2) ∧ decode 0b1001000100100000 = .ok (.sneReg 1 2) ∧
    decode 0b1011000100100011 = .ok (.jpV0 0x123) := by decide

/-- R75: the loads, the immediate add, RND and DRW. -/
theorem test_decode_loads_and_draw :
    decode 0b0110101000000101 = .ok (.ldImm 10 0x05) ∧ decode 0b0111000111111111 = .ok (.addImm 1 0xFF) ∧
    decode 0b1010001100000000 = .ok (.ldI 0x300) ∧ decode 0b1100000000001111 = .ok (.rnd 0 0x0F) ∧
    decode 0b1101000100100101 = .ok (.drw 1 2 5) := by decide

/-- R77. -/
theorem test_decode_family_8 :
    decode 0b1000000100100000 = .ok (.ldReg 1 2) ∧ decode 0b1000000100100001 = .ok (.or 1 2) ∧
    decode 0b1000000100100010 = .ok (.and 1 2) ∧ decode 0b1000000100100011 = .ok (.xor 1 2) ∧
    decode 0b1000000100100100 = .ok (.addReg 1 2) ∧ decode 0b1000000100100101 = .ok (.sub 1 2) ∧
    decode 0b1000000100100110 = .ok (.shr 1 2) ∧ decode 0b1000000100100111 = .ok (.subn 1 2) ∧
    decode 0b1000000100101110 = .ok (.shl 1 2) := by decide

/-- R78. -/
theorem test_decode_family_E :
    decode 0b1110001010011110 = .ok (.skp 2) ∧ decode 0b1110001010100001 = .ok (.sknp 2) := by decide

/-- R79. -/
theorem test_decode_family_F :
    decode 0b1111000100000111 = .ok (.ldXDT 1) ∧ decode 0b1111001100001010 = .ok (.ldK 3) ∧
    decode 0b1111000000010101 = .ok (.ldDT 0) ∧ decode 0b1111000000011000 = .ok (.ldST 0) ∧
    decode 0b1111000100011110 = .ok (.addI 1) ∧ decode 0b1111101000101001 = .ok (.ldF 10) ∧
    decode 0b1111000000110011 = .ok (.ldB 0) ∧ decode 0b1111001001010101 = .ok (.ldMemX 2) ∧
    decode 0b1111001001100101 = .ok (.ldXMem 2) := by decide

/-- R80: the ignored bits. R81: illegal words. R92: 0x00FF is a SYS word. R70: two bytes are consumed. -/
theorem test_decode_ignored_and_illegal :
    decode 0x03E0 = .ok .cls ∧ decode 0x5121 = .ok (.seReg 1 2) ∧ decode 0x912F = .ok (.sneReg 1 2) ∧
    decode 0x812F = .error (.illegalOpcode 0x812F) ∧ decode 0xE0A0 = .error (.illegalOpcode 0xE0A0) ∧
    decode 0xF0FF = .error (.illegalOpcode 0xF0FF) ∧ decode 0x00FF = .ok (.sys 0x0FF) ∧
    decodeBytes [0x12, 0x34, 0x56] = .ok (.jp 0x234, [0x56]) ∧ decodeBytes [0x12] = .error .truncated := by decide

/-- R72: some encodings back to their words. -/
theorem test_encode_words :
    encode (.call 0x210) = 0x2210 ∧ encode (.drw 1 2 5) = 0xD125 ∧ encode (.shl 1 2) = 0x812E ∧
    encode (.sneReg 10 11) = 0x9AB0 ∧ encode (.ldXMem 15) = 0xFF65 ∧ encode (.rnd 12 0x0F) = 0xCC0F := by decide

/-- Lines of the listings of 95_test_vectors.md L3 (R89). -/
theorem test_asm_text :
    asmText (.ldImm 10 0x05) = "LD VA, 0x05" ∧ asmText (.drw 0 1 5) = "DRW V0, V1, 5" ∧
    asmText (.jp 0x20C) = "JP 0x20C" ∧ asmText (.ldXMem 2) = "LD V2, [I]" := by decide

/-! ## Control flow, one step (95_test_vectors.md L2.1) -/

/-- L2.1 16 and R206: the fault record, pc not advanced. -/
theorem test_sys_faults :
    (run1 0x0123 State.reset).map (fun t => (t.fault, t.pc, t.opcode)) =
      some (some ⟨.illegalOpcode, 0x0123, 0x200, 0x123⟩, 0x200, 0) := by decide

/-- L2.1 18. -/
theorem test_sys_nop :
    (run1 0x0123 (machine fun c => { c with sysPolicy := .nop })).map (fun t => (t.fault, t.pc, t.opcode)) =
      some (none, 0x202, 0x0123) := by decide

/-- L2.1 4. -/
theorem test_ret_pops :
    (run1 0x00EE { State.reset with sp := 1, stack := State.reset.stack.set 0 0x456 }).map
      (fun t => (t.pc, t.sp, t.stack[0])) = some (0x456, 0, 0x456) := by decide

/-- L2.1 3. -/
theorem test_ret_underflow :
    (run1 0x00EE State.reset).map (fun t => (t.fault, t.pc, t.sp)) =
      some (some ⟨.stackUnderflow, 0x00EE, 0x200, 0⟩, 0x200, 0) := by decide

/-- L2.1 1. -/
theorem test_jp : (run1 0x1ABC State.reset).map (·.pc) = some 0xABC := by decide

/-- L2.1 2. -/
theorem test_call_pushes :
    (run1 0x2ABC State.reset).map (fun t => (t.pc, t.sp, t.stack[0])) = some (0xABC, 1, 0x202) := by decide

/-- L2.1 5 and L2.4 15: no push and no tick. -/
theorem test_call_overflow :
    (run1 0x2ABC { State.reset with sp := 16, dt := 3 }).map (fun t => (t.fault, t.pc, t.sp, t.stack[15], t.dt)) =
      some (some ⟨.stackOverflow, 0x2ABC, 0x200, 16⟩, 0x200, 16, 0, 3) := by decide

/-- L2.1 6, 7. -/
theorem test_seImm :
    (run1 0x3042 (regs [(0, 0x42)])).map (·.pc) = some 0x204 ∧
    (run1 0x3042 (regs [(0, 0x41)])).map (·.pc) = some 0x202 := by decide

/-- L2.1 8, 9. -/
theorem test_sneImm :
    (run1 0x4042 (regs [(0, 0x42)])).map (·.pc) = some 0x202 ∧
    (run1 0x4042 (regs [(0, 0x41)])).map (·.pc) = some 0x204 := by decide

/-- L2.1 11, and the other direction. -/
theorem test_seReg :
    (run1 0x5011 (regs [(0, 3), (1, 3)])).map (·.pc) = some 0x204 ∧
    (run1 0x5010 (regs [(0, 3), (1, 4)])).map (·.pc) = some 0x202 := by decide

/-- L2.1 12, 13. -/
theorem test_sneReg :
    (run1 0x9010 (regs [(0, 3), (1, 4)])).map (·.pc) = some 0x204 ∧
    (run1 0x9010 (regs [(0, 3), (1, 3)])).map (·.pc) = some 0x202 := by decide

/-- L1.5: the mask applies before the addition. -/
theorem test_jpV0 : (run1 0xB123 (regs [(0, 0x10)])).map (·.pc) = some 0x133 := by decide

/-- L2.1 14: the sum is not masked. -/
theorem test_jpV0_unmasked :
    (run1 0xBFFF (regs [(0, 0xFF)])).map (fun t => (t.pc, t.fault)) = some (0x10FE, none) := by decide

/-! ## Loads and arithmetic, one step (L1.3, L1.4, L2.2) -/

/-- L2.2 1. -/
theorem test_ldImm : (run1 0x6AFF State.reset).map (fun t => (t.getV 10, t.pc)) = some (0xFF, 0x202) := by decide

/-- L2.2 2: no flag. -/
theorem test_addImm :
    (run1 0x7AFF (regs [(10, 2), (15, 9)])).map (fun t => (t.getV 10, t.getV 15)) = some (1, 9) := by decide

/-- L2.2 4. -/
theorem test_ldReg :
    (run1 0x8010 (regs [(0, 1), (1, 0x99)])).map (fun t => (t.getV 0, t.getV 1)) = some (0x99, 0x99) := by decide

/-- L2.2 5. -/
theorem test_or :
    (run1 0x8011 (regs [(0, 0x0C), (1, 0x0A), (15, 0x77)])).map (fun t => (t.getV 0, t.getV 15)) =
      some (0x0E, 0x77) := by decide

/-- L2.2 6. -/
theorem test_and : (run1 0x8012 (regs [(0, 0x0C), (1, 0x0A)])).map (·.getV 0) = some 0x08 := by decide

/-- L2.2 7, 8. -/
theorem test_xor :
    (run1 0x8013 (regs [(0, 0x0C), (1, 0x0A)])).map (·.getV 0) = some 0x06 ∧
    (run1 0x8003 (regs [(0, 0x5A)])).map (·.getV 0) = some 0 := by decide

/-- L1.3. -/
theorem test_addReg_carry :
    (run1 0x8014 (regs [(0, 0xFF), (1, 1)])).map (fun t => (t.getV 0, t.getV 15)) = some (0, 1) ∧
    (run1 0x8014 (regs [(0, 1), (1, 1)])).map (fun t => (t.getV 0, t.getV 15)) = some (2, 0) := by decide

/-- L2.2 19: the flag wins over the sum. -/
theorem test_addReg_into_VF : (run1 0x8F14 (regs [(15, 0xFF), (1, 1)])).map (·.getV 15) = some 1 := by decide

/-- L1.4. -/
theorem test_sub_borrow :
    (run1 0x8015 (regs [(0, 5), (1, 3)])).map (fun t => (t.getV 0, t.getV 15)) = some (2, 1) ∧
    (run1 0x8015 (regs [(0, 3), (1, 5)])).map (fun t => (t.getV 0, t.getV 15)) = some (0xFE, 0) := by decide

/-- L2.2 9, 20: equal operands, and VF as destination. -/
theorem test_sub_equal_and_into_VF :
    (run1 0x8015 (regs [(0, 7), (1, 7)])).map (fun t => (t.getV 0, t.getV 15)) = some (0, 1) ∧
    (run1 0x8F15 (regs [(15, 5), (1, 3)])).map (·.getV 15) = some 1 := by decide

/-- L2.2 10, 21. -/
theorem test_shr :
    (run1 0x8016 (regs [(0, 5)])).map (fun t => (t.getV 0, t.getV 15)) = some (2, 1) ∧
    (run1 0x8F06 (regs [(15, 2)])).map (·.getV 15) = some 0 := by decide

/-- L2.2 14: V1 takes half of V2. -/
theorem test_shr_quirk :
    (run1 0x8126 (regs [(1, 9), (2, 3)] (machine fun c => { c with shiftQuirk := true }))).map
      (fun t => (t.getV 1, t.getV 2, t.getV 15)) = some (1, 3, 1) := by decide

/-- L2.2 16, 17. -/
theorem test_subn :
    (run1 0x8017 (regs [(0, 3), (1, 5)])).map (fun t => (t.getV 0, t.getV 15)) = some (2, 1) ∧
    (run1 0x8017 (regs [(0, 5), (1, 3)])).map (fun t => (t.getV 0, t.getV 15)) = some (0xFE, 0) := by decide

/-- L2.2 12, 13. -/
theorem test_shl :
    (run1 0x801E (regs [(0, 0x81)])).map (fun t => (t.getV 0, t.getV 15)) = some (2, 1) ∧
    (run1 0x801E (regs [(0, 0x40)])).map (fun t => (t.getV 0, t.getV 15)) = some (0x80, 0) := by decide

/-- L2.2 15: V1 takes twice V2. -/
theorem test_shl_quirk :
    (run1 0x812E (regs [(1, 9), (2, 0x81)] (machine fun c => { c with shiftQuirk := true }))).map
      (fun t => (t.getV 1, t.getV 2, t.getV 15)) = some (2, 0x81, 1) := by decide

/-- L2.2 24. -/
theorem test_ldI : (run1 0xA123 State.reset).map (·.i) = some 0x123 := by decide

/-- L2.2 26, 29: VF unchanged by default; 16-bit wrap. -/
theorem test_addI :
    (run1 0xF11E { regs [(1, 1), (15, 7)] with i := 0xFFF }).map (fun t => (t.i, t.getV 15)) = some (0x1000, 7) ∧
    (run1 0xF21E { regs [(2, 2)] with i := 0xFFFF }).map (·.i) = some 1 := by decide

/-- L2.2 28, 30: with the flag on; VF is read as the addend first. -/
theorem test_addI_flag :
    (run1 0xF11E { regs [(1, 1), (15, 9)] (machine fun c => { c with addIndexOverflowFlag := true }) with
      i := 0x300 }).map (fun t => (t.i, t.getV 15)) = some (0x301, 0) ∧
    (run1 0xFF1E { regs [(15, 0x20)] (machine fun c => { c with addIndexOverflowFlag := true }) with
      i := 0xFF0 }).map (fun t => (t.i, t.getV 15)) = some (0x1010, 1) := by decide

/-- L2.2 32, whatever the oracle draws: `kk = 0` gives 0, and the draw is counted. -/
theorem test_rnd_zero_mask :
    (run1 0xC300 (regs [(3, 0x55)])).map (fun t => (t.getV 3, t.draws)) = some (0, 1) := by
  have h : (run1 0xC300 (regs [(3, 0x55)])).map (fun t => (t.getV 3, t.draws)) =
      some (Config.draw 0 &&& 0, 1) := rfl
  rw [h]; simp

/-! ## Display, one step (L2.3) -/

/-- L2.3 2: bits 11..8 are ignored, VF stays. -/
theorem test_cls :
    (run1 0x01E0 (oneCell 5 6 (regs [(15, 7)]))).map (fun t => (t.cell 5 6, t.getV 15)) = some (false, 7) := by decide

/-- L2.3 4: wrap at the right edge. -/
theorem test_drw_wrap :
    (run1 0xD011 { regs [(0, 0x3E), (15, 7)] with i := 0x300, mem := [(0x300, 0xFF)] }).map
      (fun t => ([61, 62, 63, 0, 5, 6].map (t.cell · 0), t.cell 0 1, t.getV 15)) =
    some ([false, true, true, true, true, false], false, 0) := by decide

/-- L2.3 11: the old VF is the column, and the second pixel collides. -/
theorem test_drw_collision :
    (run1 0xDF11 { oneCell 6 2 (regs [(15, 5), (1, 2)]) with i := 0x300, mem := [(0x300, 0xC0)] }).map
      (fun t => ([4, 5, 6, 7].map (t.cell · 2), t.getV 15)) = some ([false, true, false, false], 1) := by decide

/-- L2.3 13, 14. -/
theorem test_ldF :
    (run1 0xF029 (regs [(0, 0x0A)])).map (·.i) = some 0x082 ∧
    (run1 0xF029 (regs [(0, 0x20)])).map (·.i) = some 0x0F0 := by decide

/-! ## Keys and timers, one step (L2.4) -/

/-- L2.4 1, 2. -/
theorem test_skp :
    (run1 0xE09E ((regs [(0, 3)]).setKey 3 true)).map (·.pc) = some 0x204 ∧
    (run1 0xE09E (regs [(0, 3)])).map (·.pc) = some 0x202 := by decide

/-- L2.4 5. -/
theorem test_skp_bad_key :
    (run1 0xE09E (regs [(0, 0x10)])).map (fun t => (t.fault, t.pc)) =
      some (some ⟨.badKeyIndex, 0xE09E, 0x200, 0x10⟩, 0x200) := by decide

/-- L2.4 3, 4. -/
theorem test_sknp :
    (run1 0xE0A1 ((regs [(0, 3)]).setKey 3 true)).map (·.pc) = some 0x202 ∧
    (run1 0xE0A1 (regs [(0, 3)])).map (·.pc) = some 0x204 := by decide

/-- L2.4 7: the lowest key. -/
theorem test_ldK :
    (run1 0xF50A (((regs []).setKey 9 true).setKey 3 true)).map (fun t => (t.getV 5, t.pc)) =
      some (3, 0x202) := by decide

/-- L1.7, L2.4 8: no key. -/
theorem test_ldK_waits :
    (run1 0xF30A (regs [(3, 0x55)])).map (fun t => (t.getV 3, t.pc)) = some (0x55, 0x200) := by decide

/-- L2.4 9: the register takes DT before the tick. -/
theorem test_ldXDT :
    (run1 0xF007 { State.reset with dt := 9 }).map (fun t => (t.getV 0, t.dt)) = some (9, 8) := by decide

/-- L2.4 11. -/
theorem test_ldDT :
    (run1 0xF015 (regs [(0, 5)])).map (·.dt) = some 4 ∧
    (run1 0xF015 (regs [(0, 5)] (machine fun c => { c with timerCoupling := .external }))).map (·.dt) =
      some 5 := by decide

/-- L2.4 12. -/
theorem test_ldST :
    (run1 0xF018 (regs [(0, 1)])).map (·.st) = some 0 ∧
    (run1 0xF018 (regs [(0, 1)] (machine fun c => { c with timerCoupling := .external }))).map (·.st) =
      some 1 := by decide

/-! ## Memory transfer, one step (L2.5) -/

/-- L2.5 2, 3. -/
theorem test_ldB :
    (run1 0xF033 { regs [(0, 0xFF)] with i := 0x300 }).map (fun t => t.readBytes 0x300 3) = some [2, 5, 5] ∧
    (run1 0xF033 { regs [(0, 100)] with i := 0x300 }).map (fun t => t.readBytes 0x300 3) = some [1, 0, 0] := by
  decide

/-- L2.5 4: nothing is written. -/
theorem test_ldB_out_of_range :
    (run1 0xF033 { regs [(0, 1)] with i := 0xFFE, mem := [(0xFFE, 0xAA)] }).map
      (fun t => (t.fault, t.readBytes 0xFFE 2)) =
    some (some ⟨.memoryOutOfRange, 0xF033, 0x200, 0x1000⟩, [0xAA, 0]) := by decide

/-- L2.5 7. -/
theorem test_ldMemX_quirk :
    (run1 0xF255 { regs [(0, 1), (1, 2), (2, 3), (3, 4)] (machine fun c => { c with loadStoreQuirk := true }) with
      i := 0x300 }).map (fun t => (t.readBytes 0x300 4, t.i)) = some ([1, 2, 3, 0], 0x303) := by decide

/-- L2.5 5. -/
theorem test_ldMemX_out_of_range :
    (run1 0xF155 { regs [(0, 1), (1, 2)] with i := 0xFFF }).map (fun t => (t.fault, t.readByte 0xFFF)) =
      some (some ⟨.memoryOutOfRange, 0xF155, 0x200, 0x1000⟩, 0) := by decide

/-- L2.5 8, with V3 left alone. -/
theorem test_ldXMem_quirk :
    (run1 0xF265 { regs [(3, 9)] (machine fun c => { c with loadStoreQuirk := true }) with
      i := 0x300, mem := [(0x300, 7), (0x302, 8)] }).map
      (fun t => (t.getV 0, t.getV 1, t.getV 2, t.getV 3, t.i)) = some (7, 0, 8, 9, 0x303) := by decide

/-- L2.5 6: the last byte of memory is in range. -/
theorem test_ldXMem_last_byte :
    (run1 0xF065 { regs [(0, 9)] with i := 0xFFF }).map (fun t => (t.getV 0, t.pc, t.fault)) =
      some (0, 0x202, none) := by decide

/-! ## The cycle, memory and the host (L1.1, L1.9, L2.6) -/

/-- L2.6 1, 3: a fetch at the last word, and at an odd pc. -/
theorem test_fetch_edges :
    (run1 0x00E0 { State.reset with pc := 0xFFE }).map (fun t => (t.pc, t.fault)) = some (0x1000, none) ∧
    (run1 0x6012 { State.reset with pc := 0x201 }).map (fun t => (t.pc, t.getV 0)) = some (0x203, 0x12) := by decide

/-- L2.6 2: opcode 0 in the record, the first out-of-range address in info. -/
theorem test_fetch_out_of_range :
    (run1 0x00E0 { State.reset with pc := 0xFFF }).map (fun t => (t.fault, t.pc)) =
      some (some ⟨.memoryOutOfRange, 0, 0xFFF, 0x1000⟩, 0xFFF) := by decide

/-- L1.1: glyphs 1 and F, and the bytes beside the font. -/
theorem test_font :
    State.reset.readBytes 0x055 5 = [0x20, 0x60, 0x20, 0x20, 0x70] ∧
    State.reset.readBytes 0x09B 5 = [0xF0, 0x80, 0xF0, 0x80, 0x80] ∧
    State.reset.readByte 0x04F = 0 ∧ State.reset.readByte 0x0A0 = 0 := by decide

/-- A write over the font and back again leaves the memory list empty: the canonical form. -/
theorem test_memory_canonical :
    Memory.write Config.default (Memory.write Config.default [] 0x50 0x11) 0x50 0xF0 = [] ∧
    Memory.writeBytes Config.default [] 0x300 [1, 0, 2] = [(0x300, 1), (0x302, 2)] := by decide

/-- L2.4's host tick: saturating at 0, and no such operation under `per_cycle`. -/
theorem test_hostTick :
    ({ machine (fun c => { c with timerCoupling := .external }) with dt := 1 }.hostTick).map
      (fun t : State => (t.dt, t.st)) = some (0, 0) ∧
    State.reset.hostTick = none := by decide

/-- The table's words of zeros and ones reach their rows' instructions, and step runs the word placed at pc. -/
theorem test_table_words :
    decodeTableWord 16 0xD125 = some (.drw 1 2 5) ∧ decodeTableWord 16 0x8008 = none ∧
    (State.reset.withFetchWord 16 0x00EE).nextInstr = some .ret := by decide

/-! ## Witnesses: the hypotheses of the statements are met

One theorem for each statement that has hypotheses, a clause at a time, at the values where its clauses meet. -/

/-- A fault record for the witnesses that need a halted core. -/
def someRecord : FaultRecord := ⟨.stackUnderflow, 0x00EE, 0x200, 0⟩

theorem witness_DecodeOfEncodeIsTheInstruction :
    (Instr.sys 0x0EF).wellFormed = true ∧ (Instr.drw 15 15 15).wellFormed = true := by decide

theorem witness_DispatchIgnoresOnlyTheNamedBits :
    decode 0x0FE0 = .ok .cls ∧ (0x03E0 : Word) &&& ~~~(ignoredBits .cls) = 0x0FE0 &&& ~~~(ignoredBits .cls) ∧
    decode 0x512F = .ok (.seReg 1 2) ∧ decode 0x0123 = .ok (.sys 0x123) := by decide

theorem witness_IllegalWordsAreExactlyTheUnhandledKeys :
    illegalSlot 0x8008 ∧ illegalSlot 0x8FFF ∧ illegalSlot 0xE09F ∧ illegalSlot 0xF066 ∧
    ¬ illegalSlot 0x8FFE ∧ ¬ illegalSlot 0xE09E ∧ ¬ illegalSlot 0xF065 ∧ ¬ illegalSlot 0x0123 := by
  unfold illegalSlot
  exact ⟨by decide, by decide, by decide, by decide, by decide, by decide, by decide, by decide⟩

/-- At the last word that can be fetched. -/
theorem witness_StepRunsTheDecodedInstruction :
    let s := { State.reset with pc := 0xFFE }.withFetchWord 16 0x6012
    s.fault = none ∧ s.pc.toNat ≤ 0xFFE ∧ decode (wordAtPc s) = .ok (.ldImm 0 0x12) := by decide

theorem witness_FetchAboveFFEFaults :
    let s := { State.reset with pc := 0xFFF }
    let s' := { State.reset with pc := 0xFFFF }
    (s.fault = none ∧ 0xFFE < s.pc.toNat) ∧ (s'.fault = none ∧ 0xFFE < s'.pc.toNat) := by decide

theorem witness_HaltedCycleChangesNothing :
    { State.reset with fault := some someRecord }.fault = some someRecord := by decide

theorem witness_IllegalOpcodeIsTaken_slot :
    let s := State.reset.withFetchWord 16 0x8008
    s.fault = none ∧ s.pc.toNat ≤ 0xFFE ∧ illegalSlot (wordAtPc s) := by
  unfold illegalSlot; decide

theorem witness_IllegalOpcodeIsTaken_sys :
    State.reset.fault = none ∧ State.reset.pc.toNat ≤ 0xFFE ∧
      sysWord (wordAtPc State.reset) ∧ State.reset.config.sysPolicy = .fault := by
  unfold sysWord; decide

theorem witness_EveryCycleRetiresOrFaults : State.reset.fault = none := by decide

/-- The fault of reset's own first cycle (L2.1 17). -/
theorem witness_FaultsArePrecise :
    State.reset.fault = none ∧
    ∃ t, step State.reset = .next t ∧ t.fault = some ⟨.illegalOpcode, 0, 0x200, 0⟩ :=
  ⟨rfl, next_of_answers (by decide)⟩

/-- Each of the six disjuncts: fetch, IllegalOpcode (the SYS words: `witness_FaultsArePrecise`), StackOverflow,
StackUnderflow, BadKeyIndex, MemoryOutOfRange. -/
theorem witness_OnlyTheseFaultsAreTaken :
    (∃ t, step { State.reset with pc := 0x1000 } = .next t ∧
      t.fault = some ⟨.memoryOutOfRange, 0, 0x1000, 0x1000⟩) ∧
    (∃ t, step (State.reset.withFetchWord 16 0x8008) = .next t ∧
      t.fault = some ⟨.illegalOpcode, 0x8008, 0x200, 0x8008⟩) ∧
    (∃ t, step ({ State.reset with sp := 16 }.withFetchWord 16 0x2ABC) = .next t ∧
      t.fault = some ⟨.stackOverflow, 0x2ABC, 0x200, 16⟩) ∧
    (∃ t, step (State.reset.withFetchWord 16 0x00EE) = .next t ∧
      t.fault = some ⟨.stackUnderflow, 0x00EE, 0x200, 0⟩) ∧
    (∃ t, step ((regs [(0, 0x10)]).withFetchWord 16 0xE0A1) = .next t ∧
      t.fault = some ⟨.badKeyIndex, 0xE0A1, 0x200, 0x10⟩) ∧
    (∃ t, step ({ State.reset with i := 0xFFF }.withFetchWord 16 0xD012) = .next t ∧
      t.fault = some ⟨.memoryOutOfRange, 0xD012, 0x200, 0x1000⟩) :=
  ⟨next_of_answers (by decide), next_of_answers (by decide), next_of_answers (by decide),
    next_of_answers (by decide), next_of_answers (by decide), next_of_answers (by decide)⟩

theorem witness_RetiredCycleRecordsTheOpcode :
    State.reset.fault = none ∧ ∃ t, step (State.reset.withFetchWord 16 0x6177) = .next t ∧ t.fault = none :=
  ⟨rfl, next_of_answers (by decide)⟩

/-- A cycle that writes DT, under each coupling. -/
theorem witness_RetiredCycleTicksPerCoupling :
    (let s := (regs [(0, 5)]).withFetchWord 16 0xF015
     s.fault = none ∧ s.nextInstr = some (.ldDT 0) ∧ s.config.timerCoupling = .perCycle ∧
     ∃ t, step s = .next t ∧ t.fault = none) ∧
    (let s := (regs [(0, 5)] (machine fun c => { c with timerCoupling := .external })).withFetchWord 16 0xF015
     s.fault = none ∧ s.nextInstr = some (.ldDT 0) ∧ s.config.timerCoupling = .external ∧
     ∃ t, step s = .next t ∧ t.fault = none) :=
  ⟨⟨rfl, by decide, rfl, next_of_answers (by decide)⟩, ⟨rfl, by decide, rfl, next_of_answers (by decide)⟩⟩

/-- RET with the highest entry in use. -/
theorem witness_PcAfterARetiredCycle :
    let s := { State.reset with sp := 16 }.withFetchWord 16 0x00EE
    s.fault = none ∧ s.nextInstr = some .ret ∧ ∃ t, step s = .next t ∧ t.fault = none :=
  ⟨rfl, by decide, next_of_answers (by decide)⟩

theorem witness_NoCycleWritesConfigOrKeys :
    ∃ t, step (State.reset.setKey 15 true) = .next t ∧ t.key = (State.reset.setKey 15 true).key :=
  next_of_answers (by decide)

/-- Instructions of each exempt kind and of none: a store at the top of memory, a call, a draw. -/
theorem witness_OnlyTheNamedInstructionsWriteEachState :
    (let s := { State.reset with i := 0xFFD }.withFetchWord 16 0xF033
     s.fault = none ∧ s.nextInstr = some (.ldB 0) ∧ ∃ t, step s = .next t ∧ t.fault = none) ∧
    (let s := { State.reset with sp := 15 }.withFetchWord 16 0x2ABC
     s.fault = none ∧ s.nextInstr = some (.call 0xABC) ∧ ∃ t, step s = .next t ∧ t.fault = none) ∧
    (let s := State.reset.withFetchWord 16 0xD010
     s.fault = none ∧ s.nextInstr = some (.drw 0 1 0) ∧ ∃ t, step s = .next t ∧ t.fault = none) :=
  ⟨⟨rfl, by decide, next_of_answers (by decide)⟩, ⟨rfl, by decide, next_of_answers (by decide)⟩,
    ⟨rfl, by decide, next_of_answers (by decide)⟩⟩

theorem witness_StoredWordIsFetched : { State.reset with pc := 0xFFE }.pc.toNat ≤ 0xFFE := by decide

theorem witness_SpinRepeats :
    (let s := State.reset.withFetchWord 16 0x1200
     s.spins = true ∧ ∃ t, step s = .next t ∧ t.pc = 0x200) ∧
    (let s := (machine fun c => { c with timerCoupling := .external }).withFetchWord 16 0x1200
     s.spins = true ∧ s.config.timerCoupling = .external ∧ ∃ t, step s = .next t ∧ t.pc = 0x200) :=
  ⟨⟨by decide, next_of_answers (by decide)⟩, ⟨by decide, rfl, next_of_answers (by decide)⟩⟩

/-- Each end of a run occurs. -/
theorem witness_RunEndTellsTheFinalState :
    (runToEnd 1 (State.reset.withFetchWord 16 0x1200)).1 = .spin ∧ (runToEnd 1 State.reset).1 = .fault ∧
    (runToEnd 1 (State.reset.withFetchWord 16 0x1300)).1 = .fuel := by decide

theorem witness_SoundTimerIsNeverRead :
    ∃ t, step ({ State.reset with st := 9 }.withFetchWord 16 0x6177) = .next t ∧ t.st = 8 :=
  next_of_answers (by decide)

/-- A cycle that retires and one that faults. -/
theorem witness_OpcodeRegisterIsNotReadByLaterCycles :
    (∃ t, step (State.reset.withFetchWord 16 0x6177) = .next t ∧ t.opcode = 0x6177) ∧
    (∃ t, step { State.reset with opcode := 0x6177 } = .next t ∧ t.opcode = 0x6177 ∧ t.fault ≠ none) :=
  ⟨next_of_answers (by decide), next_of_answers (by decide)⟩

/-- Stacks that agree below sp = 1 and differ above, and a RET. -/
theorem witness_StackEntriesAboveSpAreNeverRead :
    let s := { State.reset with sp := 1 }.withFetchWord 16 0x00EE
    (∀ k : Fin 16, k.val < s.sp.val → (s.stack.set 1 0x456)[k] = s.stack[k]) ∧ s.stack.set 1 0x456 ≠ s.stack ∧
    ∃ t, step s = .next t ∧ t.sp = 0 :=
  ⟨by decide, by decide, next_of_answers (by decide)⟩

/-- Reset has the invariant: the witness of every statement about it. -/
theorem witness_reset_Inv : State.reset.Inv :=
  ⟨by decide, by decide, by decide, fun r h => by cases h⟩

/-- So has a state at the invariant's bounds, and a step leads on from it. -/
theorem witness_StepKeepsTheMachineInvariant :
    let s := { State.reset with sp := 16, stack := Vector.replicate 16 0x1000, pc := 0x10FE }
    s.Inv ∧ ∃ t, step s = .next t ∧ t.fault = some ⟨.memoryOutOfRange, 0, 0x10FE, 0x10FE⟩ :=
  ⟨⟨by decide, by decide, by decide, fun r h => by cases h⟩, next_of_answers (by decide)⟩

/-- Every host operation, one after the other. -/
theorem witness_HostOperationsKeepTheMachineInvariant :
    (machine fun c => { c with timerCoupling := .external }).Inv ∧
    ∃ t, hostRun [.loadProgram [0x12, 0x00], .setKey 5 true, .cycle, .tick, .displayBuffer, .soundTimer, .reinit]
      (machine fun c => { c with timerCoupling := .external }) = some t :=
  ⟨⟨by decide, by decide, by decide, fun r h => by cases h⟩, Option.isSome_iff_exists.1 (by decide)⟩

/-- A constructed machine, and `initialize()` on one with a key held; a font byte, and bytes beside the font. -/
theorem witness_ResetValues :
    State.reset = State.construct Config.default ∧
    (let u := { State.reset.setKey 5 true with dt := 3, fault := some someRecord }
     u.config = Config.default ∧ hostCall .reinit u = some (u.reinit, .nothing)) ∧
    Config.default.fontBase.toNat + (79 : Fin 80).val ≤ 0xFFF ∧ 0x4F < Config.default.fontBase.toNat ∧
    Config.default.fontBase.toNat + 80 ≤ 0xFFF := by decide

theorem witness_LoadProgramCopiesOrRefuses :
    (List.replicate 3584 (0x11 : Byte)).length ≤ 4096 - 0x200 ∧
    4096 - 0x200 < (List.replicate 3585 (0x11 : Byte)).length := by
  rw [List.length_replicate, List.length_replicate]; decide

theorem witness_LaunchStateMeetsItsPremises :
    (List.replicate 3584 (0x11 : Byte)).length ≤ 3584 ∧ 3584 < (List.replicate 3585 (0x11 : Byte)).length := by
  rw [List.length_replicate, List.length_replicate]; decide

theorem witness_SetKeyWritesOneKey : (0 : Fin 16) ≠ 15 := by decide

theorem witness_HostTickAndSoundTimer :
    (machine fun c => { c with timerCoupling := .external }).config.timerCoupling = .external ∧
    State.reset.config.timerCoupling = .perCycle := by decide

theorem witness_SysFollowsThePolicy :
    (machine fun c => { c with sysPolicy := .nop }).config.sysPolicy = .nop ∧
    State.reset.config.sysPolicy = .fault := by decide

/-- sp = 16, sp = 1 and sp = 0. -/
theorem witness_RetPopsIntoPc :
    (15 : Fin 16).val + 1 = { State.reset with sp := 16 }.sp.val ∧
    (0 : Fin 16).val + 1 = { State.reset with sp := 1 }.sp.val ∧ State.reset.sp.val = 0 := by decide

/-- sp = 0, sp = 15 and sp = 16. -/
theorem witness_CallPushesAndJumps :
    (0 : Fin 16).val = State.reset.sp.val ∧ (15 : Fin 16).val = { State.reset with sp := 15 }.sp.val ∧
    { State.reset with sp := 16 }.sp.val = 16 := by decide

theorem witness_CallThenRetReturns :
    let s := { State.reset with sp := 15 }
    s.sp.val < 16 ∧ ∃ t, exec (.call 0x210) s = .next t ∧ t.sp = 16 :=
  ⟨by decide, next_of_answers (by decide)⟩

theorem witness_ShiftRightHalvesTheSource :
    State.reset.config.shiftQuirk = false ∧
    (machine fun c => { c with shiftQuirk := true }).config.shiftQuirk = true := by decide

theorem witness_ShiftLeftDoublesTheSource :
    State.reset.config.shiftQuirk = false ∧
    (machine fun c => { c with shiftQuirk := true }).config.shiftQuirk = true := by decide

/-- The frame clauses of the result statements have registers other than the destination and VF; where the destination
is VF there is no result beside the flag. -/
theorem witness_register_frames : (14 : RegIx) ≠ 15 ∧ (0 : RegIx) ≠ 14 ∧ (0 : RegIx) ≠ 15 := by decide

/-- n = 0 with I anywhere, the last byte of memory, and one byte further; a pixel that falls on a cell and one that
collides. -/
theorem witness_DrwTogglesExactlyTheSpriteCells :
    ((0 : Fin 16).val = 0 ∨ (0xFFFF : Word).toNat + (0 : Fin 16).val ≤ 0x1000) ∧
    ((1 : Fin 16).val = 0 ∨ (0xFFF : Word).toNat + (1 : Fin 16).val ≤ 0x1000) ∧
    ((2 : Fin 16).val ≠ 0 ∧ 0x1000 < (0xFFF : Word).toNat + (2 : Fin 16).val) ∧
    (let s := oneCell 0 0 { State.reset with i := 0x050 }
     spriteHits s 0 1 1 0 0 ∧ s.cell 0 0 = true ∧ ¬ spriteHits s 0 1 0 0 0) :=
  ⟨by decide, by decide, by decide, ⟨0, 0, by decide, by decide, by decide, by decide, by decide⟩, by decide,
    fun ⟨r, _, h, _⟩ => by simp at h⟩

/-- A pixel past the right edge, under each edge policy: wrapped to column 0, and clipped. -/
theorem witness_DrwTogglesExactlyTheSpriteCells_edges :
    spriteHits { regs [(0, 63)] with i := 0x050 } 0 1 1 0 0 ∧
    spriteHits { regs [(0, 63)] (machine fun c => { c with drawEdge := .clip }) with i := 0x050 } 0 1 1 63 0 :=
  ⟨⟨0, 1, by decide, by decide, by decide, by decide, by decide⟩, ⟨0, 0, by decide, by decide, by decide, by decide, by decide⟩⟩

/-- A glyph of the font, drawn at (V0, V1). -/
theorem witness_DrawingTwiceRestoresTheDisplay :
    let s := { State.reset with i := 0x050 }
    (0 : RegIx) ≠ 15 ∧ (1 : RegIx) ≠ 15 ∧ s.i.toNat + (5 : Fin 16).val ≤ 0x1000 ∧
    ∃ t, exec (.drw 0 1 5) s = .next t ∧ t.fault = none :=
  ⟨by decide, by decide, by decide, next_of_answers (by decide)⟩

/-- Vx = 0, 15 and 16. -/
theorem witness_KeySkips :
    (0 : Fin 16).val = (State.reset.getV 0).toNat ∧ (15 : Fin 16).val = ((regs [(0, 15)]).getV 0).toNat ∧
    0xF < ((regs [(0, 16)]).getV 0).toNat := by decide

/-- Key 15 alone, and no key. -/
theorem witness_KeyWaitTakesTheLowestKeyOrReplays :
    ((State.reset.setKey 15 true).keyDown 15 = true ∧
      ∀ j, j < 15 → (State.reset.setKey 15 true).keyDown j = false) ∧
    ∀ k, State.reset.keyDown k = false := by decide

theorem witness_WaitingCycleStaysInPlace :
    (State.reset.withFetchWord 16 0xF30A).waits = true ∧
    ((machine fun c => { c with timerCoupling := .external }).withFetchWord 16 0xF30A).waits = true := by decide

/-- I = 0xFFD and 0xFFE; digits of 255 beside a byte left alone. -/
theorem witness_BcdStoresThreeDigits :
    { State.reset with i := 0xFFD }.i.toNat + 2 ≤ 0xFFF ∧ 0xFFF < { State.reset with i := 0xFFE }.i.toNat + 2 := by
  decide

/-- One byte at 0xFFF is in range and two are not; 16 bytes at 0xFF0 are. -/
theorem witness_BlockStoreCopiesRegisters :
    { State.reset with i := 0xFFF }.i.toNat + (0 : RegIx).val ≤ 0xFFF ∧
    { State.reset with i := 0xFF0 }.i.toNat + (15 : RegIx).val ≤ 0xFFF ∧
    0xFFF < { State.reset with i := 0xFFF }.i.toNat + (1 : RegIx).val := by decide

/-- The same bounds. -/
theorem witness_BlockLoadCopiesMemory :
    { State.reset with i := 0xFFF }.i.toNat + (0 : RegIx).val ≤ 0xFFF ∧
    { State.reset with i := 0xFF0 }.i.toNat + (15 : RegIx).val ≤ 0xFFF ∧
    0xFFF < { State.reset with i := 0xFFF }.i.toNat + (1 : RegIx).val := by decide

theorem witness_StoreThenLoadRestoresRegisters :
    let s := { regs [(0, 0x11), (1, 0x22), (2, 0x33)] with i := 0x300 }
    s.config.loadStoreQuirk = false ∧ s.i.toNat + (2 : RegIx).val ≤ 0xFFF ∧
    ∃ t, exec (.ldMemX 2) s = .next t ∧ t.readBytes 0x300 3 = [0x11, 0x22, 0x33] :=
  ⟨by decide, by decide, next_of_answers (by decide)⟩

end Sys2Proof.Tests
end

/-! PROOFS. The scope statements (00_scope.md): no cycle writes the configuration or the key latch; RND. -/

namespace Sys2Proof.Machine

open Sys2Proof

/-! ## The configuration and the key latch -/

/-- No instruction writes the configuration or the key latch (R33, R38). The split is over what a meaning branches
on; every branch ends in updates of other fields. -/
theorem exec_config_key {i : Instr} {s t : State} (h : exec i s = .next t) :
    t.config = s.config ∧ t.key = s.key := by
  cases i <;> simp only [exec] at h
  case sys => unfold execSys at h; split at h <;> cases h <;> exact ⟨rfl, rfl⟩
  case ret =>
    unfold execRet at h
    rcases s.pop_cases with ⟨_, _, _, e⟩ | ⟨_, e⟩ <;> rw [e] at h <;> cases h <;> exact ⟨rfl, rfl⟩
  case call =>
    unfold execCall at h
    rcases s.push_cases s.pc with ⟨_, _, e⟩ | ⟨_, e⟩ <;> rw [e] at h <;> cases h <;> exact ⟨rfl, rfl⟩
  case skp => unfold execSkp at h; split at h <;> cases h <;> simp
  case sknp => unfold execSknp at h; split at h <;> cases h <;> simp
  case ldK => unfold execLdK at h; split at h <;> cases h <;> exact ⟨rfl, rfl⟩
  case ldB => unfold execLdB at h; split at h <;> cases h <;> exact ⟨rfl, rfl⟩
  case ldMemX => unfold execLdMemX at h; split at h <;> cases h <;> exact ⟨rfl, rfl⟩
  case ldXMem => unfold execLdXMem at h; split at h <;> cases h <;> exact ⟨rfl, rfl⟩
  case drw => unfold execDrw at h; split at h <;> cases h <;> exact ⟨rfl, rfl⟩
  case addI => cases h; split <;> exact ⟨rfl, rfl⟩
  case seImm => cases h; simp
  case sneImm => cases h; simp
  case seReg => cases h; simp
  case sneReg => cases h; simp
  all_goals cases h; exact ⟨rfl, rfl⟩

/-- Where the instruction kept the configuration and the key latch, the end of its cycle keeps them too, be it
retired or undone (R86, R206). -/
theorem State.endCycle_config_key {before after : State}
    (h : after.config = before.config ∧ after.key = before.key) :
    (before.endCycle after).config = before.config ∧ (before.endCycle after).key = before.key := by
  rcases before.endCycle_cases after with ⟨r, -, e⟩ | ⟨-, e⟩ <;> rw [e]
  · exact ⟨rfl, rfl⟩
  · split <;> exact h

/-- No step writes the configuration or the key latch: of the four ways a cycle goes, only an executed instruction
could, and it does not. -/
theorem step_config_key {s t : State} (h : step s = .next t) : t.config = s.config ∧ t.key = s.key := by
  rcases step_cases h with ⟨-, rfl⟩ | ⟨-, -, rfl⟩ | ⟨-, op, e, -, -, rfl⟩ | ⟨-, op, i, u, -, -, hexec, rfl⟩
  · exact ⟨rfl, rfl⟩
  · exact ⟨rfl, rfl⟩
  · exact ⟨rfl, rfl⟩
  · have hkept : u.config = s.config ∧ u.key = s.key := by simpa using exec_config_key hexec
    exact State.endCycle_config_key hkept

/-! ## RND -/

/-- What RND answers (R134): the draw is counted, and Vx takes the drawn byte AND kk. -/
theorem exec_rnd (x : RegIx) (kk : Byte) (s : State) :
    exec (.rnd x kk) s = .next (s.drawByte.2.setV x (Config.draw s.draws &&& kk)) := rfl

/-- A byte masked by `kk` has no bit outside `kk`. -/
theorem masked_and_not_mask (b kk : Byte) : b &&& kk &&& ~~~kk = 0 := by
  rw [BitVec.and_assoc, BitVec.and_not_self]; exact BitVec.and_zero

end Sys2Proof.Machine

namespace Sys2Proof.Claims

open Sys2Proof Sys2Proof.Machine

/-- Settles O15: whichever way the cycle goes, the configuration and the key latch stay. -/
theorem noCycleWritesConfigOrKeys : Obligations.NoCycleWritesConfigOrKeys :=
  fun _ _ h => step_config_key h

/-- Settles O49: from the one state RND answers, by the rules for a register written and the others read. -/
theorem rndMasksTheDraw : Obligations.RndMasksTheDraw := by
  intro x kk s
  have hx : (s.drawByte.2.setV x (Config.draw s.draws &&& kk)).getV x = Config.draw s.draws &&& kk := by simp
  refine ⟨_, exec_rnd x kk s, rfl, hx, ?_, fun k hk => ?_⟩
  · rw [hx, masked_and_not_mask]
  · simp [hk]

end Sys2Proof.Claims

/-! PROOFS. The state statements (10_state.md): which state an instruction writes, where it leaves pc, which faults
it raises, which state it does not read; the call stack, the key wait and the reset values. -/

namespace Sys2Proof.Machine

open Sys2Proof Sys2Proof.Claims

/-! ## The call stack: RET and CALL by the number of entries in use -/

theorem State.sp_zero_or_succ (s : State) : s.sp.val = 0 ∨ ∃ k : Fin 16, k.val + 1 = s.sp.val := by
  by_cases h : s.sp.val = 0
  · exact .inl h
  · exact .inr ⟨⟨s.sp.val - 1, by omega⟩, by simp only; omega⟩

/-- RET with an entry in use: the top entry goes to pc and stays in the stack (R29, R102). -/
theorem exec_ret_of_succ {s : State} {k : Fin 16} (hk : k.val + 1 = s.sp.val) :
    exec .ret s = .next { s with pc := s.stack[k], sp := k.castSucc } := by
  rcases s.pop_cases with ⟨_, _, _, e⟩ | ⟨h0, _⟩
  · have hk' : s.sp.val - 1 = k.val := by omega
    simp only [exec, execRet, e, hk']; rfl
  · omega

theorem exec_ret_of_empty {s : State} (h0 : s.sp.val = 0) :
    exec .ret s = .next (s.raise .stackUnderflow 0) := by
  simp [exec, execRet, State.pop, h0]

/-- CALL with a free entry: the next instruction's address goes on the stack (R29, R104). -/
theorem exec_call_of_lt (nnn : Addr12) {s : State} (h : s.sp.val < 16) :
    exec (.call nnn) s = .next
      { s with pc := addrOperand nnn, stack := s.stack.set s.sp.val s.pc h, sp := ⟨s.sp.val + 1, by omega⟩ } := by
  simp only [exec, execCall, State.push, h, dif_pos]; rfl

theorem exec_call_of_full (nnn : Addr12) {s : State} (h16 : s.sp.val = 16) :
    exec (.call nnn) s = .next (s.raise .stackOverflow 16) := by
  simp [exec, execCall, State.push, h16]

/-! ## What an instruction writes, or which fault it raises -/

/-- The state after an instruction that raised no fault: whatever the claims do not name for the instruction is as
before, and so are the fault field and the opcode register (R23, R24, R28, R32, R34, R52). A field that the update
at hand does not touch needs no argument. -/
structure KeepsUnnamed (i : Instr) (s t : State) : Prop where
  fault : t.fault = s.fault := by rfl
  opcode : t.opcode = s.opcode := by rfl
  regs : ∀ k, ¬ mayWriteV s.config k i → t.getV k = s.getV k := by intros; rfl
  index : ¬ mayWriteI s.config i → t.i = s.i := by intros; rfl
  disp : ¬ mayWriteDisplay i → t.disp = s.disp := by intros; rfl
  bytes : ∀ a, ¬ mayStoreTo s a i → t.readByte a = s.readByte a := by intros; rfl
  stack : (∀ nnn, i ≠ .call nnn) → t.stack = s.stack := by intros; rfl
  sp : (∀ nnn, i ≠ .call nnn) → i ≠ .ret → t.sp = s.sp := by intros; rfl

/-- The state in which an instruction raises a fault, with the kind and the extra value (R200 to R205). An
instruction that accesses no byte from I has `bytesFromI` 0 and raises no MemoryOutOfRange. -/
def raisesFault (s : State) (kind : FaultKind) (info : Nat) : Instr → Prop
  | .sys _ => kind = .illegalOpcode ∧ info = s.opcode.toNat ∧ s.config.sysPolicy = .fault
  | .call _ => kind = .stackOverflow ∧ info = 16 ∧ s.sp.val = 16
  | .ret => kind = .stackUnderflow ∧ info = 0 ∧ s.sp.val = 0
  | .skp x => kind = .badKeyIndex ∧ info = (s.getV x).toNat ∧ 0xF < (s.getV x).toNat
  | .sknp x => kind = .badKeyIndex ∧ info = (s.getV x).toNat ∧ 0xF < (s.getV x).toNat
  | i => kind = .memoryOutOfRange ∧ bytesFromI i ≠ 0 ∧ 0x1000 < s.i.toNat + bytesFromI i ∧
      info = max s.i.toNat 0x1000

section

variable {i : Instr} {s : State}

theorem keepsUnnamed_self : KeepsUnnamed i s s := {}

theorem keepsUnnamed_setPc (w : Word) : KeepsUnnamed i s (s.setPc w) := {}

theorem keepsUnnamed_skipIf (c : Bool) : KeepsUnnamed i s (s.skipIf c) := by
  rw [State.skipIf_eq]; exact keepsUnnamed_setPc _

theorem keepsUnnamed_setI (w : Word) (hi : mayWriteI s.config i) : KeepsUnnamed i s (s.setI w) where
  index h := absurd hi h

theorem keepsUnnamed_setV {x : RegIx} (b : Byte) (hx : mayWriteV s.config x i) :
    KeepsUnnamed i s (s.setV x b) where
  regs k hk := by
    have : k ≠ x := fun e => hk (e ▸ hx)
    simp [this]

theorem keepsUnnamed_setResultThenFlag {x : RegIx} (b : Byte) (f : Bool) (hx : mayWriteV s.config x i)
    (hF : mayWriteV s.config VF i) : KeepsUnnamed i s (s.setResultThenFlag x b f) where
  regs k hk := by
    have hkx : k ≠ x := fun e => hk (e ▸ hx)
    have hkF : k ≠ VF := fun e => hk (e ▸ hF)
    simp [hkx, hkF]

/-- What a failed range check of a block from I says of the block (R56). -/
theorem State.blockFault_eq_some {n a : Nat} (h : s.blockFault n = some a) :
    n ≠ 0 ∧ 0x1000 < s.i.toNat + n ∧ a = max s.i.toNat 0x1000 := by
  by_cases hn : n = 0 ∨ s.i.toNat + n ≤ 0x1000
  · rw [State.blockFault, (firstOutOfRange_eq_none s.base n).2 hn] at h; cases h
  · rw [s.blockFault_of_exceeds (by omega) (by omega)] at h
    exact ⟨by omega, by omega, (Option.some.inj h).symm⟩

/-- A block store touches no byte outside its block. -/
theorem State.readByte_writeBytes_outside {a b : Nat} {ws : List Byte} (h : ¬ (a ≤ b ∧ b < a + ws.length)) :
    (s.writeBytes a ws).readByte b = s.readByte b := by
  rw [State.readByte_writeBytes, dif_neg (by omega)]

/-- I stays where it is after a block transfer without the quirk (R191, R192). -/
theorem State.indexAfterTransfer_of_no_quirk (x : RegIx) (h : ¬ s.config.loadStoreQuirk = true) :
    s.indexAfterTransfer x = s.i := if_neg h

end

/-- Everything an instruction can do: raise a fault in a state its rule names, with nothing else written, or leave
alone whatever the claims do not name for it. -/
theorem exec_cases {i : Instr} {s t : State} (h : exec i s = .next t) :
    (∃ kind info, t = s.raise kind info ∧ raisesFault s kind info i) ∨ KeepsUnnamed i s t := by
  cases i
  case sys =>
    simp only [exec, execSys] at h; split at h <;> cases h
    case h_1 hp => exact .inl ⟨_, _, rfl, rfl, rfl, hp⟩
    case h_2 => exact .inr keepsUnnamed_self
  case cls => cases h; exact .inr { disp := absurd trivial }
  case ret =>
    rcases s.sp_zero_or_succ with h0 | ⟨k, hk⟩
    · rw [exec_ret_of_empty h0] at h; cases h; exact .inl ⟨_, _, rfl, rfl, rfl, h0⟩
    · rw [exec_ret_of_succ hk] at h; cases h; exact .inr { sp := fun _ hr => absurd rfl hr }
  case call nnn =>
    by_cases hlt : s.sp.val < 16
    · rw [exec_call_of_lt nnn hlt] at h; cases h
      exact .inr { stack := fun hc => absurd rfl (hc nnn), sp := fun hc => absurd rfl (hc nnn) }
    · have h16 : s.sp.val = 16 := by omega
      rw [exec_call_of_full nnn h16] at h; cases h; exact .inl ⟨_, _, rfl, rfl, rfl, h16⟩
  case jp | jpV0 => cases h; exact .inr (keepsUnnamed_setPc _)
  case seImm | sneImm | seReg | sneReg => cases h; exact .inr (keepsUnnamed_skipIf _)
  case addReg | sub | shr | subn | shl =>
    cases h; exact .inr (keepsUnnamed_setResultThenFlag _ _ (.inl rfl) (.inr rfl))
  case ldI | ldF => cases h; exact .inr (keepsUnnamed_setI _ trivial)
  case ldDT | ldST => cases h; exact .inr {}
  case rnd x kk =>
    cases h
    exact .inr { regs := (keepsUnnamed_setV (i := .rnd x kk) (s := s) _ rfl).regs }
  case drw x y n =>
    simp only [exec, execDrw] at h; split at h <;> cases h
    case h_1 hb => exact .inl ⟨_, _, rfl, rfl, State.blockFault_eq_some hb⟩
    case h_2 =>
      exact .inr { disp := absurd trivial
                   regs := (keepsUnnamed_setV (i := .drw x y n) (s := s) (x := VF) _ rfl).regs }
  case skp x | sknp x =>
    simp only [exec, execSkp, execSknp] at h
    rcases keyOperand_cases (s.getV x) with ⟨_, e⟩ | ⟨h15, e⟩ <;> rw [e] at h <;> cases h
    · exact .inr (keepsUnnamed_skipIf _)
    · exact .inl ⟨_, _, rfl, rfl, rfl, h15⟩
  case ldK =>
    simp only [exec, execLdK] at h; split at h <;> cases h
    · exact .inr (keepsUnnamed_setV _ rfl)
    · exact .inr (keepsUnnamed_setPc _)
  case addI x =>
    cases h; split
    case isTrue hc =>
      exact .inr { index := absurd trivial
                   regs := (keepsUnnamed_setV (i := .addI x) (s := s) (x := VF) _ ⟨hc, rfl⟩).regs }
    case isFalse => exact .inr (keepsUnnamed_setI _ trivial)
  case ldB x =>
    simp only [exec, execLdB] at h; split at h <;> cases h
    case h_1 hb => exact .inl ⟨_, _, rfl, rfl, State.blockFault_eq_some hb⟩
    case h_2 => exact .inr { bytes := fun a ha => State.readByte_writeBytes_outside ha }
  case ldMemX x =>
    simp only [exec, execLdMemX] at h; split at h <;> cases h
    case h_1 hb => exact .inl ⟨_, _, rfl, rfl, State.blockFault_eq_some hb⟩
    case h_2 =>
      refine .inr { index := fun hq => State.indexAfterTransfer_of_no_quirk x hq, bytes := fun a ha => ?_ }
      rw [State.readByte_setI]
      refine State.readByte_writeBytes_outside ?_
      rw [State.regsUpTo_length]
      exact fun ⟨hlow, hhigh⟩ => ha ⟨hlow, Nat.le_of_lt_succ hhigh⟩
  case ldXMem x =>
    have hregs : ∀ k, ¬ k ≤ x → (s.regsFromMemory x)[k] = s.getV k := fun k hk => by
      rw [State.regsFromMemory_get, if_neg hk]
    simp only [exec, execLdXMem] at h
    generalize s.regsFromMemory x = loaded at h hregs
    split at h <;> cases h
    case h_1 hb => exact .inl ⟨_, _, rfl, rfl, State.blockFault_eq_some hb⟩
    case h_2 => exact .inr { index := fun hq => State.indexAfterTransfer_of_no_quirk x hq, regs := hregs }
  all_goals cases h; exact .inr (keepsUnnamed_setV _ rfl)

/-! ## The step, case by case -/

section

variable {s : State} {op : Word} {i : Instr}

theorem State.fetch_eq_ok (h : s.fetch = .ok op) : s.pc.toNat ≤ 0xFFE ∧ op = wordAtPc s := by
  rcases s.fetch_cases with ⟨hpc, e⟩ | ⟨_, e⟩ <;> rw [e] at h <;> cases h
  exact ⟨hpc, rfl⟩

theorem State.nextInstr_of_decode (hf : s.fetch = .ok op) (hd : decode op = .ok i) : s.nextInstr = some i := by
  simp [State.nextInstr, hf, hd]

theorem State.nextInstr_eq_some (h : s.nextInstr = some i) : ∃ op, s.fetch = .ok op ∧ decode op = .ok i := by
  unfold State.nextInstr at h
  split at h
  · cases h
  · split at h <;> cases h
    exact ⟨_, ‹_›, ‹_›⟩

theorem step_of_halted (hh : s.halted = true) : step s = .next s := if_pos hh

theorem step_of_running (hh : s.halted = false) : step s = runCycle s := by simp [step, hh]

theorem step_of_fetch_beyond (hh : s.halted = false) (hpc : 0xFFE < s.pc.toNat) :
    step s = .next (s.takeFault .memoryOutOfRange 0 s.pc (max s.pc.toNat 0x1000)) := by
  rcases s.fetch_cases with ⟨hle, _⟩ | ⟨_, e⟩
  · omega
  · rw [step_of_running hh, runCycle, e]; rfl

theorem step_of_illegal {err : DecodeError} (hh : s.halted = false) (hf : s.fetch = .ok op)
    (hd : decode op = .error err) : step s = .next (s.takeFault .illegalOpcode op s.pc op.toNat) := by
  simp only [step_of_running hh, runCycle, hf, hd, State.illegalOpcode_eq]; rfl

theorem step_of_exec {u : State} (hh : s.halted = false) (hf : s.fetch = .ok op) (hd : decode op = .ok i)
    (he : exec i (s.beginExecute op) = .next u) : step s = .next (s.endCycle u) := by
  simp only [step_of_running hh, runCycle, hf, hd, he]

theorem State.endCycle_of_fault {before after : State} {r : FaultRecord} (h : after.fault = some r) :
    before.endCycle after = { before with fault := some r } := by
  simp [State.endCycle, h]

theorem State.endCycle_of_retires {before after : State} (h : after.fault = none) :
    before.endCycle after = if after.config.timerCoupling = .perCycle then after.tick else after := by
  rcases before.endCycle_cases after with ⟨r, hr, _⟩ | ⟨_, e⟩
  · rw [h] at hr; cases hr
  · exact e

/-- A retired cycle executed one instruction without a fault; all it added is the tick (R83 to R86). -/
theorem step_retired {t : State} (hs : s.fault = none) (h : step s = .next t) (ht : t.fault = none) :
    ∃ i u, s.nextInstr = some i ∧ exec i (s.beginExecute (wordAtPc s)) = .next u ∧ u.fault = none ∧
      (t = u ∨ t = u.tick) := by
  rcases step_cases h with ⟨hh, _⟩ | ⟨_, _, rfl⟩ | ⟨_, _, _, _, _, rfl⟩ | ⟨_, op, i, u, hf, hd, he, rfl⟩
  · exact absurd hs (State.halted_iff s |>.1 hh)
  · cases ht
  · cases ht
  · obtain ⟨_, rfl⟩ := State.fetch_eq_ok hf
    rcases s.endCycle_cases u with ⟨r, _, e⟩ | ⟨hu, e⟩
    · rw [e] at ht; cases ht
    · refine ⟨i, u, State.nextInstr_of_decode hf hd, he, hu, ?_⟩
      rw [e]; split
      exacts [.inr rfl, .inl rfl]

/-- The same for a cycle whose instruction is known. -/
theorem step_retired_of_nextInstr {t : State} (hs : s.fault = none) (hi : s.nextInstr = some i)
    (h : step s = .next t) (ht : t.fault = none) :
    ∃ u, exec i (s.beginExecute (wordAtPc s)) = .next u ∧ u.fault = none ∧ (t = u ∨ t = u.tick) := by
  obtain ⟨j, u, hj, he⟩ := step_retired hs h ht
  cases hi.symm.trans hj
  exact ⟨u, he⟩

/-- An instruction that raised no fault left alone whatever the claims do not name for it. -/
theorem exec_keepsUnnamed {t : State} (h : exec i s = .next t) (ht : t.fault = none) : KeepsUnnamed i s t := by
  rcases exec_cases h with ⟨_, _, rfl, _⟩ | hk
  · cases ht
  · exact hk

/-- An instruction that raised a fault did so as its rule says, with the fetched opcode and its own address in the
record (R37, R200). -/
theorem exec_raised {t : State} {r : FaultRecord} (hs : s.fault = none) (h : exec i s = .next t)
    (hr : t.fault = some r) : r.opcode = s.opcode ∧ r.pc = s.pc - 2 ∧ raisesFault s r.kind r.info i := by
  rcases exec_cases h with ⟨_, _, rfl, hc⟩ | hk
  · cases hr; exact ⟨rfl, rfl, hc⟩
  · rw [hk.fault, hs] at hr; cases hr

end

/-! ## pc after an instruction -/

/-- A taken skip ends 4 beyond the instruction's own address (R26, R100). -/
theorem State.skipIf_beginExecute_pc (s : State) (op : Word) (c : Bool) :
    ((s.beginExecute op).skipIf c).pc = if c then s.pc + 4 else s.pc + 2 := by
  have h4 : s.pc + 2 + 2 = s.pc + 4 := by rw [BitVec.add_assoc]; rfl
  rw [State.skipIf_pc, State.beginExecute_pc, h4]

/-- The tick does not touch pc. -/
theorem pcAfter_tick {i : Instr} {s u : State} (h : pcAfter s u i) : pcAfter s u.tick i := by
  cases i <;> exact h

/-- pc as an instruction without a fault leaves it (R26). -/
theorem exec_pcAfter {i : Instr} {s u : State} {op : Word} (h : exec i (s.beginExecute op) = .next u)
    (hu : u.fault = none) : pcAfter s u i := by
  cases i
  case sys =>
    simp only [exec, execSys] at h; split at h <;> cases h
    · cases hu
    · rfl
  case ret =>
    rcases (s.beginExecute op).sp_zero_or_succ with h0 | ⟨k, hk⟩
    · rw [exec_ret_of_empty h0] at h; cases h; cases hu
    · rw [exec_ret_of_succ hk] at h; cases h; exact ⟨k, hk, rfl⟩
  case call nnn =>
    by_cases hlt : (s.beginExecute op).sp.val < 16
    · rw [exec_call_of_lt nnn hlt] at h; cases h; exact addrOperand_toNat nnn
    · rw [exec_call_of_full nnn (by omega)] at h; cases h; cases hu
  case jp nnn => cases h; exact addrOperand_toNat nnn
  case jpV0 nnn => cases h; exact State.indexedTarget_toNat _ nnn
  case seImm | sneImm | seReg | sneReg =>
    cases h; exact (s.skipIf_beginExecute_pc op _).trans (by simp)
  case skp x =>
    simp only [exec, execSkp] at h
    rcases keyOperand_cases (s.getV x) with ⟨hx, e⟩ | ⟨_, e⟩ <;> rw [State.getV_beginExecute, e] at h <;> cases h
    · exact ⟨⟨_, hx⟩, rfl, s.skipIf_beginExecute_pc op _⟩
    · cases hu
  case sknp x =>
    simp only [exec, execSknp] at h
    rcases keyOperand_cases (s.getV x) with ⟨hx, e⟩ | ⟨_, e⟩ <;> rw [State.getV_beginExecute, e] at h <;> cases h
    · refine ⟨⟨_, hx⟩, rfl, (s.skipIf_beginExecute_pc op _).trans ?_⟩
      cases hk : s.keyDown ⟨_, hx⟩ <;> simp [hk]
    · cases hu
  case ldK =>
    simp only [exec, execLdK] at h
    rcases (s.beginExecute op).lowestKey_cases with ⟨k, e, hk, _⟩ | ⟨e, hnone⟩ <;> rw [e] at h <;> cases h
    · exact (if_pos ⟨k, hk⟩).symm
    · have hup : ¬ ∃ k, s.keyDown k = true := fun ⟨k, hk⟩ => by
        rw [← State.keyDown_beginExecute s k op, hnone k] at hk; cases hk
      exact (BitVec.add_sub_cancel s.pc 2).trans (if_neg hup).symm
  case drw | ldB | ldMemX | ldXMem =>
    simp only [exec, execDrw, execLdB, execLdMemX, execLdXMem] at h
    split at h <;> cases h
    · cases hu
    · rfl
  case addI => cases h; change _ = s.pc + 2; split <;> rfl
  all_goals cases h; rfl

/-! ## The words of R81: what a decode without an instruction, or with SYS, says of the word -/

section

variable {op : Word}

/-- Family 0x0 handles every word (R76). -/
theorem decodeFamily0_ne_error {e : DecodeError} : decodeFamily0 op ≠ .error e := by
  unfold decodeFamily0; split_ifs <;> simp

theorem decodeFamily0_sys {nnn : Addr12} (h : decodeFamily0 op = .ok (.sys nnn)) :
    fieldKK op ∉ [0xE0#8, 0xEE#8] := by
  unfold decodeFamily0 at h
  split_ifs at h <;> cases h
  simp only [List.mem_cons, List.not_mem_nil, or_false, not_or]
  and_intros <;> assumption

theorem decodeFamily8_error {e : DecodeError} (h : decodeFamily8 op = .error e) :
    fieldN op ∈ [0x8#4, 0x9#4, 0xA#4, 0xB#4, 0xC#4, 0xD#4, 0xF#4] := by
  have nibble : ∀ n : BitVec 4, n ∈ [0x8#4, 0x9#4, 0xA#4, 0xB#4, 0xC#4, 0xD#4, 0xF#4] ∨
      n ∈ [0x0#4, 0x1#4, 0x2#4, 0x3#4, 0x4#4, 0x5#4, 0x6#4, 0x7#4, 0xE#4] := by decide
  rcases nibble (fieldN op) with hn | hn
  · exact hn
  · simp only [List.mem_cons, List.not_mem_nil, or_false] at hn
    rcases hn with hn | hn | hn | hn | hn | hn | hn | hn | hn <;> rw [decodeFamily8, hn] at h <;> cases h

theorem decodeFamilyE_error {e : DecodeError} (h : decodeFamilyE op = .error e) :
    fieldKK op ∉ [0x9E#8, 0xA1#8] := by
  intro hk
  simp only [List.mem_cons, List.not_mem_nil, or_false] at hk
  rcases hk with hk | hk <;> rw [decodeFamilyE, hk] at h <;> cases h

theorem decodeFamilyF_error {e : DecodeError} (h : decodeFamilyF op = .error e) :
    fieldKK op ∉ [0x07#8, 0x0A#8, 0x15#8, 0x18#8, 0x1E#8, 0x29#8, 0x33#8, 0x55#8, 0x65#8] := by
  intro hk
  simp only [List.mem_cons, List.not_mem_nil, or_false] at hk
  rcases hk with hk | hk | hk | hk | hk | hk | hk | hk | hk <;> rw [decodeFamilyF, hk] at h <;> cases h

theorem ite_ne_of_ne {α : Type} {c : Prop} [Decidable c] {a b v : α} (ha : a ≠ v) (hb : b ≠ v) :
    (if c then a else b) ≠ v := by
  split <;> assumption

theorem decodeFamily8_ne_sys {nnn : Addr12} : decodeFamily8 op ≠ .ok (.sys nnn) := by
  unfold decodeFamily8; iterate 9 refine ite_ne_of_ne nofun ?_
  exact nofun

theorem decodeFamilyE_ne_sys {nnn : Addr12} : decodeFamilyE op ≠ .ok (.sys nnn) := by
  unfold decodeFamilyE; iterate 2 refine ite_ne_of_ne nofun ?_
  exact nofun

theorem decodeFamilyF_ne_sys {nnn : Addr12} : decodeFamilyF op ≠ .ok (.sys nnn) := by
  unfold decodeFamilyF; iterate 9 refine ite_ne_of_ne nofun ?_
  exact nofun

/-- The dispatch on the leading nibble (R75): one of the four families with a secondary key, or an instruction that
is not SYS. -/
theorem decode_cases (op : Word) :
    (fieldN1 op = 0x0#4 ∧ decode op = decodeFamily0 op) ∨ (fieldN1 op = 0x8#4 ∧ decode op = decodeFamily8 op) ∨
    (fieldN1 op = 0xE#4 ∧ decode op = decodeFamilyE op) ∨ (fieldN1 op = 0xF#4 ∧ decode op = decodeFamilyF op) ∨
    ∃ i, decode op = .ok i ∧ ∀ nnn, i ≠ .sys nnn := by
  have nibble : ∀ n : BitVec 4, n = 0x0#4 ∨ n = 0x8#4 ∨ n = 0xE#4 ∨ n = 0xF#4 ∨ n = 0x1#4 ∨ n = 0x2#4 ∨
      n = 0x3#4 ∨ n = 0x4#4 ∨ n = 0x5#4 ∨ n = 0x6#4 ∨ n = 0x7#4 ∨ n = 0x9#4 ∨ n = 0xA#4 ∨ n = 0xB#4 ∨
      n = 0xC#4 ∨ n = 0xD#4 := by decide
  rcases nibble (fieldN1 op) with h | h | h | h | h
  · exact .inl ⟨h, by rw [decode, h]; rfl⟩
  · exact .inr (.inl ⟨h, by rw [decode, h]; rfl⟩)
  · exact .inr (.inr (.inl ⟨h, by rw [decode, h]; rfl⟩))
  · exact .inr (.inr (.inr (.inl ⟨h, by rw [decode, h]; rfl⟩)))
  · refine .inr (.inr (.inr (.inr ?_)))
    rw [decode]
    rcases h with h | h | h | h | h | h | h | h | h | h | h | h <;> rw [h] <;> exact ⟨_, rfl, nofun⟩

/-- A word without an instruction is in one of the first three classes of R81. -/
theorem illegalSlot_of_decode_error {e : DecodeError} (h : decode op = .error e) : illegalSlot op := by
  rcases decode_cases op with ⟨_, hd⟩ | ⟨h8, hd⟩ | ⟨hE, hd⟩ | ⟨hF, hd⟩ | ⟨i, hd, _⟩ <;> rw [hd] at h
  · exact absurd h decodeFamily0_ne_error
  · exact .inl ⟨h8, decodeFamily8_error h⟩
  · exact .inr (.inl ⟨hE, decodeFamilyE_error h⟩)
  · exact .inr (.inr ⟨hF, decodeFamilyF_error h⟩)
  · cases h

/-- A word that decodes to SYS is in the fourth class of R81. -/
theorem sysWord_of_decode_sys {nnn : Addr12} (h : decode op = .ok (.sys nnn)) : sysWord op := by
  rcases decode_cases op with ⟨h0, hd⟩ | ⟨_, hd⟩ | ⟨_, hd⟩ | ⟨_, hd⟩ | ⟨i, hd, hi⟩ <;> rw [hd] at h
  · exact ⟨h0, decodeFamily0_sys h⟩
  · exact absurd h decodeFamily8_ne_sys
  · exact absurd h decodeFamilyE_ne_sys
  · exact absurd h decodeFamilyF_ne_sys
  · exact absurd (Except.ok.inj h) (hi nnn)

end

/-! ## The fault of a cycle -/

/-- The fault a cycle ends with is the one its instruction left. -/
theorem State.fault_of_endCycle {before after : State} {r : FaultRecord}
    (h : (before.endCycle after).fault = some r) : after.fault = some r := by
  rcases before.endCycle_cases after with ⟨r', hr', e⟩ | ⟨_, e⟩ <;> rw [e] at h
  · cases h; exact hr'
  · split at h <;> exact h

/-! ## State that no cycle reads: ST, the opcode register, stack entries at or above sp -/

/-- The first `n` entries of two stacks are the same. -/
def agreeBelow (n : Nat) (stk stk' : Vector Word 16) : Prop := ∀ k : Fin 16, k.val < n → stk[k] = stk'[k]

/-- The state with another ST and another stack. -/
def State.withUnread (s : State) (b : Byte) (stk : Vector Word 16) : State := { s with st := b, stack := stk }

section

variable (s : State) (b : Byte) (stk : Vector Word 16)

theorem State.withUnread_config : (s.withUnread b stk).config = s.config := rfl
theorem State.withUnread_getV (x : RegIx) : (s.withUnread b stk).getV x = s.getV x := rfl
theorem State.withUnread_lowestKey : (s.withUnread b stk).lowestKey = s.lowestKey := rfl
theorem State.withUnread_regsFromMemory (x : RegIx) :
    (s.withUnread b stk).regsFromMemory x = s.regsFromMemory x := rfl
theorem State.withUnread_blockFault (n : Nat) : (s.withUnread b stk).blockFault n = s.blockFault n := rfl

end

/-- A run from `s` with ST `b` and stack `stk` ends in `t` with ST `b'` and stack `stk'`: the stacks in use agree,
and what started as in `s` ends as in `t`. -/
structure UnreadFollow (s t : State) (b : Byte) (stk : Vector Word 16) (b' : Byte) (stk' : Vector Word 16) :
    Prop where
  agree : agreeBelow t.sp.val stk' t.stack
  st : b = s.st → b' = t.st
  stack : stk = s.stack → stk' = t.stack

section

variable {s u : State} {i : Instr} {b : Byte} {stk : Vector Word 16}

/-- RET reads the entry below sp alone. -/
theorem exec_ret_withUnread (h : exec .ret s = .next u) (hstk : agreeBelow s.sp.val stk s.stack) :
    exec .ret (s.withUnread b stk) = .next (u.withUnread b stk) ∧ UnreadFollow s u b stk b stk := by
  rcases s.sp_zero_or_succ with h0 | ⟨k, hk⟩
  · rw [exec_ret_of_empty h0] at h; cases h
    exact ⟨exec_ret_of_empty (s := s.withUnread b stk) h0, hstk, id, id⟩
  · rw [exec_ret_of_succ hk] at h; cases h
    have htop : stk[k] = s.stack[k] := hstk k (by omega)
    refine ⟨?_, fun j hj => hstk j (Nat.lt_trans hj (hk ▸ Nat.lt_succ_self _)), id, id⟩
    rw [exec_ret_of_succ (s := s.withUnread b stk) hk, ← htop]; rfl

/-- CALL writes the entry at sp over whatever it held. -/
theorem exec_call_withUnread {nnn : Addr12} (h : exec (.call nnn) s = .next u)
    (hstk : agreeBelow s.sp.val stk s.stack) : ∃ stk',
      exec (.call nnn) (s.withUnread b stk) = .next (u.withUnread b stk') ∧ UnreadFollow s u b stk b stk' := by
  by_cases hlt : s.sp.val < 16
  · rw [exec_call_of_lt nnn hlt] at h; cases h
    refine ⟨stk.set s.sp.val s.pc hlt, exec_call_of_lt (s := s.withUnread b stk) nnn hlt, fun j hj => ?_, id, ?_⟩
    · by_cases hjs : s.sp.val = j.val
      · simp [hjs]
      · have : j.val < s.sp.val + 1 := hj
        simpa [hjs] using hstk j (by omega)
    · rintro rfl; rfl
  · have h16 : s.sp.val = 16 := by omega
    rw [exec_call_of_full nnn h16] at h; cases h
    exact ⟨stk, exec_call_of_full (s := s.withUnread b stk) nnn h16, hstk, id, id⟩

/-- No instruction reads ST or a stack entry at or above sp (R29, R31). All but LD ST, RET and CALL carry both
through; what an instruction branches on is the same in the two states. -/
theorem exec_withUnread (h : exec i s = .next u) (hstk : agreeBelow s.sp.val stk s.stack) : ∃ b' stk',
    exec i (s.withUnread b stk) = .next (u.withUnread b' stk') ∧ UnreadFollow s u b stk b' stk' := by
  cases i
  case ret => exact ⟨b, stk, exec_ret_withUnread h hstk⟩
  case call => exact ⟨b, exec_call_withUnread h hstk⟩
  case ldST x => cases h; exact ⟨s.getV x, stk, rfl, hstk, fun _ => rfl, id⟩
  case sys =>
    simp only [exec, execSys] at h ⊢
    cases e : s.config.sysPolicy <;> rw [e] at h <;> cases h
    · exact ⟨b, stk, by rw [State.withUnread_config, e]; rfl, hstk, id, id⟩
    · exact ⟨b, stk, by rw [State.withUnread_config, e], hstk, id, id⟩
  case seImm | sneImm | seReg | sneReg =>
    simp only [exec, execSeImm, execSneImm, execSeReg, execSneReg, State.skipIf_eq] at h ⊢
    cases h; exact ⟨b, stk, rfl, hstk, id, id⟩
  case skp x | sknp x =>
    simp only [exec, execSkp, execSknp, State.skipIf_eq] at h ⊢
    cases e : keyOperand (s.getV x) <;> rw [e] at h <;> cases h <;>
      exact ⟨b, stk, by rw [State.withUnread_getV, e]; rfl, hstk, id, id⟩
  case ldK =>
    simp only [exec, execLdK] at h ⊢
    cases e : s.lowestKey <;> rw [e] at h <;> cases h <;>
      exact ⟨b, stk, by rw [State.withUnread_lowestKey, e]; rfl, hstk, id, id⟩
  case drw x y n =>
    simp only [exec, execDrw] at h ⊢
    cases e : s.blockFault n.val <;> rw [e] at h <;> cases h <;>
      exact ⟨b, stk, by rw [State.withUnread_blockFault, e]; rfl, hstk, id, id⟩
  case ldB x =>
    simp only [exec, execLdB] at h ⊢
    cases e : s.blockFault 3 <;> rw [e] at h <;> cases h <;>
      exact ⟨b, stk, by rw [State.withUnread_blockFault, e]; rfl, hstk, id, id⟩
  case ldMemX x =>
    simp only [exec, execLdMemX] at h ⊢
    cases e : s.blockFault (x.val + 1) <;> rw [e] at h <;> cases h <;>
      exact ⟨b, stk, by rw [State.withUnread_blockFault, e]; rfl, hstk, id, id⟩
  case ldXMem x =>
    simp only [exec, execLdXMem] at h ⊢
    rw [State.withUnread_blockFault, State.withUnread_regsFromMemory]
    generalize s.regsFromMemory x = loaded at h ⊢
    cases e : s.blockFault (x.val + 1) <;> rw [e] at h <;> cases h <;> exact ⟨b, stk, rfl, hstk, id, id⟩
  case addI =>
    simp only [exec, execAddI] at h ⊢
    cases e : s.config.addIndexOverflowFlag <;> rw [e] at h <;> cases h <;>
      exact ⟨b, stk, by rw [State.withUnread_config, e]; rfl, hstk, id, id⟩
  all_goals cases h; exact ⟨b, stk, rfl, hstk, id, id⟩

/-- The end of the cycle carries ST and the stack through: a fault gives back those the cycle began with, and the
tick of a retired cycle lowers either ST. -/
theorem endCycle_withUnread {b' : Byte} {stk' : Vector Word 16} (hstk : agreeBelow s.sp.val stk s.stack)
    (hu : UnreadFollow s u b stk b' stk') : ∃ b'' stk'',
    (s.withUnread b stk).endCycle (u.withUnread b' stk') = (s.endCycle u).withUnread b'' stk'' ∧
      UnreadFollow s (s.endCycle u) b stk b'' stk'' := by
  cases hf : u.fault with
  | some r =>
    rw [State.endCycle_of_fault hf, State.endCycle_of_fault (after := u.withUnread b' stk') hf]
    exact ⟨b, stk, rfl, hstk, id, id⟩
  | none =>
    rw [State.endCycle_of_retires hf, State.endCycle_of_retires (after := u.withUnread b' stk') hf,
      State.withUnread_config]
    split
    · exact ⟨decTimer b', stk', rfl, hu.agree, fun e => congrArg decTimer (hu.st e), hu.stack⟩
    · exact ⟨b', stk', rfl, hu.agree, hu.st, hu.stack⟩

/-- No step reads ST or a stack entry at or above sp. -/
theorem step_withUnread {t : State} (h : step s = .next t) (hstk : agreeBelow s.sp.val stk s.stack) :
    ∃ b' stk', step (s.withUnread b stk) = .next (t.withUnread b' stk') ∧ UnreadFollow s t b stk b' stk' := by
  rcases step_cases h with ⟨hh, rfl⟩ | ⟨hh, hpc, rfl⟩ | ⟨hh, op, e, hf, hd, rfl⟩ | ⟨hh, op, i, u, hf, hd, he, rfl⟩
  · exact ⟨b, stk, step_of_halted (s := t.withUnread b stk) hh, hstk, id, id⟩
  · exact ⟨b, stk, step_of_fetch_beyond (s := s.withUnread b stk) hh hpc, hstk, id, id⟩
  · exact ⟨b, stk, step_of_illegal (s := s.withUnread b stk) hh hf hd, hstk, id, id⟩
  · obtain ⟨b', stk', he', hu⟩ := exec_withUnread (b := b) he hstk
    obtain ⟨b'', stk'', hend, ht⟩ := endCycle_withUnread hstk ⟨hu.agree, hu.st, hu.stack⟩
    exact ⟨b'', stk'', (step_of_exec (s := s.withUnread b stk) hh hf hd he').trans (congrArg _ hend), ht⟩

/-- Where a cycle retired, its end is that of the instruction alone; where it did not, the opcode register is as
the cycle found it. -/
theorem endCycle_with_opcode (op : Word) : { s with opcode := op }.endCycle u =
    { s.endCycle u with opcode := if (s.endCycle u).fault = none then (s.endCycle u).opcode else op } := by
  cases hf : u.fault with
  | some r => rw [State.endCycle_of_fault hf, State.endCycle_of_fault hf]; rfl
  | none =>
    have hend : (s.endCycle u).fault = none := by rw [State.endCycle_of_retires hf]; split <;> exact hf
    rw [if_pos hend, State.endCycle_of_retires hf, State.endCycle_of_retires hf]

end

/-! ## The key wait -/

theorem State.waits_iff (s : State) :
    s.waits = true ↔ s.halted = false ∧ s.lowestKey = none ∧ ∃ x, s.nextInstr = some (.ldK x) := by
  unfold State.waits
  constructor
  · intro h
    split at h
    case h_1 x hi =>
      rw [Bool.and_eq_true, Bool.not_eq_true', Option.isNone_iff_eq_none] at h
      exact ⟨h.1, h.2, x, hi⟩
    case h_2 => cases h
  · rintro ⟨hh, hkey, x, hi⟩
    rw [hi]; simp [hh, hkey]

/-- A key wait with no key down steps pc back over the instruction (R173). -/
theorem exec_ldK_of_no_key {s : State} (x : RegIx) (h : s.lowestKey = none) :
    exec (.ldK x) s = .next (s.setPc (s.pc - 2)) := by
  simp [exec, execLdK, h]

/-- A waiting cycle sets the opcode register, and ticks under `per_cycle`; pc is back where it was. -/
theorem step_of_waits {s : State} (h : s.waits = true) : ∃ t, step s = .next t ∧
    t = { s with opcode := wordAtPc s, dt := t.dt, st := t.st } := by
  obtain ⟨hh, hkey, x, hi⟩ := s.waits_iff.1 h
  obtain ⟨op, hf, hd⟩ := State.nextInstr_eq_some hi
  obtain ⟨_, rfl⟩ := State.fetch_eq_ok hf
  have he := exec_ldK_of_no_key (s := s.beginExecute (wordAtPc s)) x hkey
  rw [State.beginExecute_pc, BitVec.add_sub_cancel] at he
  refine ⟨_, step_of_exec hh hf hd he, ?_⟩
  have hnone : ((s.beginExecute (wordAtPc s)).setPc s.pc).fault = none := s.not_halted_iff.1 hh
  rw [State.endCycle_of_retires hnone]
  split <;> rfl

/-! ## The state after construction -/

/-- The font stands at FONT_BASE (R36, R42). -/
theorem resetByte_font (c : Config) (j : Fin 80) : resetByte c (c.fontBase.toNat + j.val) = c.fontData[j] := by
  have hfont : c.fontBase.toNat ≤ c.fontBase.toNat + j.val ∧ c.fontBase.toNat + j.val < c.fontBase.toNat + 80 := by
    omega
  rw [resetByte, dif_pos hfont]; simp

theorem resetByte_outside_font {c : Config} {a : Nat} (h : a < c.fontBase.toNat ∨ c.fontBase.toNat + 80 ≤ a) :
    resetByte c a = 0 := dif_neg (by omega)

theorem State.construct_getV (c : Config) (k : RegIx) : (State.construct c).getV k = 0 := by
  simp [State.getV, State.construct]

theorem State.construct_stack (c : Config) (k : Fin 16) : (State.construct c).stack[k] = 0 := by
  simp [State.construct]

theorem State.construct_cell (c : Config) (x : Fin 64) (y : Fin 32) : (State.construct c).cell x y = false :=
  blankDisplay_get x y

theorem State.construct_keyDown (c : Config) (k : Fin 16) : (State.construct c).keyDown k = false := by
  simp [State.keyDown, State.construct]

/-- Construction and a re-initialization leave the constructed state but for the key latch and the draw counter. -/
theorem constructed_or_reinit {c : Config} {u s : State}
    (h : s = State.construct c ∨ (u.config = c ∧ hostCall .reinit u = some (s, .nothing))) :
    ∃ keys drawn, s = { State.construct c with key := keys, draws := drawn } := by
  rcases h with rfl | ⟨rfl, h⟩
  · exact ⟨_, _, rfl⟩
  · cases h; exact ⟨_, _, rfl⟩

end Sys2Proof.Machine

namespace Sys2Proof.Claims

open Sys2Proof Sys2Proof.Machine

/-- Settles O11: of the four ways a cycle goes, three can fault, and an instruction raises a fault only as
`raisesFault` says; the ends of the cycle add the fetched opcode and the instruction's own address to the record. -/
theorem onlyTheseFaultsAreTaken : Obligations.OnlyTheseFaultsAreTaken := by
  intro s t r hs h hr
  rcases step_cases h with ⟨hh, _⟩ | ⟨_, hpc, rfl⟩ | ⟨_, op, e, hf, hd, rfl⟩ | ⟨_, op, i, u, hf, hd, he, rfl⟩
  · exact absurd hs ((State.halted_iff s).1 hh)
  · cases hr; exact ⟨rfl, .inl ⟨hpc, rfl, rfl, rfl⟩⟩
  · obtain ⟨hpc, rfl⟩ := State.fetch_eq_ok hf
    cases hr
    exact ⟨rfl, .inr ⟨hpc, rfl, .inl ⟨rfl, rfl, .inl (illegalSlot_of_decode_error hd)⟩⟩⟩
  · obtain ⟨hpc, rfl⟩ := State.fetch_eq_ok hf
    have hur : u.fault = some r := State.fault_of_endCycle hr
    obtain ⟨hop, hrpc, hcause⟩ := exec_raised (s := s.beginExecute _) hs he hur
    have hpc0 : r.pc = s.pc := by rw [hrpc, State.beginExecute_pc, BitVec.add_sub_cancel]
    refine ⟨hpc0, .inr ⟨hpc, hop, ?_⟩⟩
    cases i
    case sys =>
      obtain ⟨hkind, hinfo, hpolicy⟩ := hcause
      exact .inl ⟨hkind, hinfo, .inr ⟨sysWord_of_decode_sys hd, hpolicy⟩⟩
    case call nnn =>
      obtain ⟨hkind, hinfo, hsp⟩ := hcause
      exact .inr (.inl ⟨hkind, hinfo, hsp, nnn, hd⟩)
    case ret =>
      obtain ⟨hkind, hinfo, hsp⟩ := hcause
      exact .inr (.inr (.inl ⟨hkind, hinfo, hsp, hd⟩))
    case skp x =>
      obtain ⟨hkind, hinfo, hx⟩ := hcause
      exact .inr (.inr (.inr (.inl ⟨hkind, x, hinfo, hx, .inl hd⟩)))
    case sknp x =>
      obtain ⟨hkind, hinfo, hx⟩ := hcause
      exact .inr (.inr (.inr (.inl ⟨hkind, x, hinfo, hx, .inr hd⟩)))
    all_goals
      obtain ⟨hkind, hbytes⟩ := hcause
      exact .inr (.inr (.inr (.inr ⟨hkind, _, hd, hbytes⟩)))

/-- Settles O16: the frame of the executed instruction, which neither the cycle's beginning nor its tick touches. -/
theorem onlyTheNamedInstructionsWriteEachState : Obligations.OnlyTheNamedInstructionsWriteEachState := by
  intro s t i hs hi h ht
  obtain ⟨u, he, hu, htu⟩ := step_retired_of_nextInstr hs hi h ht
  have hk := exec_keepsUnnamed he hu
  rcases htu with rfl | rfl <;> exact ⟨hk.regs, hk.index, hk.disp, hk.bytes, hk.stack, hk.sp⟩

/-- Settles O12: the cycle sets the opcode register before the instruction, and no instruction writes it. -/
theorem retiredCycleRecordsTheOpcode : Obligations.RetiredCycleRecordsTheOpcode := by
  intro s t hs h ht
  obtain ⟨i, u, _, he, hu, htu⟩ := step_retired hs h ht
  have hop : u.opcode = wordAtPc s := (exec_keepsUnnamed he hu).opcode
  rcases htu with rfl | rfl <;> exact hop

/-- Settles O14: pc as the instruction leaves it, which the tick does not touch. -/
theorem pcAfterARetiredCycle : Obligations.PcAfterARetiredCycle := by
  intro s t i hs hi h ht
  obtain ⟨u, he, hu, htu⟩ := step_retired_of_nextInstr hs hi h ht
  rcases htu with rfl | rfl
  · exact exec_pcAfter he hu
  · exact pcAfter_tick (exec_pcAfter he hu)

/-- Settles O20: `step_withUnread` with the stack left as it is. -/
theorem soundTimerIsNeverRead : Obligations.SoundTimerIsNeverRead := by
  intro s t b h
  obtain ⟨b', stk', hstep, hfollow⟩ := step_withUnread (b := b) (stk := s.stack) h (fun _ _ => rfl)
  have hstack : stk' = t.stack := hfollow.stack rfl
  exact ⟨b', by subst hstack; exact hstep⟩

/-- Settles O21: a cycle that executes sets the opcode register first, so the instruction answers the same; every
other cycle leaves the register alone. -/
theorem opcodeRegisterIsNotReadByLaterCycles : Obligations.OpcodeRegisterIsNotReadByLaterCycles := by
  intro s t op h
  rcases step_cases h with ⟨hh, rfl⟩ | ⟨hh, hpc, rfl⟩ | ⟨hh, w, e, hf, hd, rfl⟩ | ⟨hh, w, i, u, hf, hd, he, rfl⟩
  · rw [if_neg ((State.halted_iff t).1 hh)]
    exact step_of_halted (s := { t with opcode := op }) hh
  · exact step_of_fetch_beyond (s := { s with opcode := op }) hh hpc
  · exact step_of_illegal (s := { s with opcode := op }) hh hf hd
  · exact (step_of_exec (s := { s with opcode := op }) hh hf hd he).trans (congrArg _ (endCycle_with_opcode op))

/-- Settles O22: `step_withUnread` with ST left as it is. -/
theorem stackEntriesAboveSpAreNeverRead : Obligations.StackEntriesAboveSpAreNeverRead := by
  intro s t stack' hagree h
  obtain ⟨b', stk', hstep, hfollow⟩ := step_withUnread (b := s.st) h hagree
  have hst : b' = t.st := hfollow.st rfl
  exact ⟨stk', by subst hst; exact hstep, hfollow.agree⟩

/-- Settles O26: the values of the constructed state, which a re-initialization shares but for the key latch. -/
theorem resetValues : Obligations.ResetValues := by
  intro c u s h
  have hkeys : s = State.construct c → ∀ k, s.keyDown k = false := by
    rintro rfl; exact State.construct_keyDown c
  have hlatch : hostCall .reinit u = some (s, .nothing) → s.key = u.key := by
    intro h; cases h; rfl
  obtain ⟨keys, drawn, rfl⟩ := constructed_or_reinit h
  exact ⟨State.construct_getV c, rfl, rfl, rfl, State.construct_stack c, rfl, rfl, rfl, rfl, State.construct_cell c,
    fun j _ => resetByte_font c j, fun _ _ ha => resetByte_outside_font ha, hkeys, hlatch⟩

/-- Settles O34: RET by the number of entries in use. -/
theorem retPopsIntoPc : Obligations.RetPopsIntoPc :=
  fun _ => ⟨fun _ hk => ⟨_, exec_ret_of_succ hk, rfl, rfl, rfl⟩, exec_ret_of_empty⟩

/-- Settles O36: the entry RET reads is the one CALL wrote. -/
theorem callThenRetReturns : Obligations.CallThenRetReturns := by
  intro nnn s t u hlt h hsp hstack
  rw [exec_call_of_lt nnn hlt] at h; cases h
  have hk : (⟨s.sp.val, hlt⟩ : Fin 16).val + 1 = u.sp.val := by rw [hsp]
  refine ⟨_, exec_ret_of_succ hk, ?_, rfl⟩
  simp [hstack]

/-- Settles O55: the state a waiting cycle leaves differs in nothing that decides whether the next one waits. -/
theorem waitingCycleStaysInPlace : Obligations.WaitingCycleStaysInPlace := by
  intro s h
  obtain ⟨t, hstep, ht⟩ := step_of_waits h
  have hhalted : t.halted = false := by rw [ht]; exact (s.waits_iff.1 h).1
  have hwaits : t.waits = true := by rw [ht]; exact h
  exact ⟨t, hstep, ht, by simp [operatingState, hhalted, h], hwaits⟩

/-- Settles O25: nothing is listed in memory, on the stack or in the fault record. -/
theorem constructedMachineHasTheInvariant : Obligations.ConstructedMachineHasTheInvariant := fun c =>
  { memWf := Memory.nil_wf c
    stackLow := fun _ hk => absurd hk (Nat.not_lt_zero _)
    pcLow := (by decide : (0x200 : Word).toNat ≤ 0x10FE)
    faultPc := nofun }

end Sys2Proof.Claims

/-! PROOFS. The memory statements (20_memory.md): instruction words as two bytes, high byte first, in a byte list and
in memory; the fetch at and beyond the last word; how a cycle ends. -/

namespace Sys2Proof

/-! ## A word and its two bytes -/

/-- The two bytes of a word in fetch order make the word (R53). -/
theorem wordOfBytes_extract (op : Word) : wordOfBytes (op.extractLsb' 8 8) (op.extractLsb' 0 8) = op := by
  apply BitVec.eq_of_getLsbD_eq; intro i hi
  rw [wordOfBytes_bit, BitVec.getLsbD_extractLsb', BitVec.getLsbD_extractLsb']
  split
  case isTrue hlow => simp [hlow]
  case isFalse hhigh =>
    have hwidth : i - 8 < 8 := by omega
    have hsum : 8 + (i - 8) = i := by omega
    simp [hwidth, hsum]

/-- A byte list that begins with the two bytes of a word decodes as the word does, and loses those two (R70). -/
theorem decodeBytes_extract (op : Word) (rest : List Byte) :
    decodeBytes (op.extractLsb' 8 8 :: op.extractLsb' 0 8 :: rest) = (decode op).map (·, rest) := by
  rw [decodeBytes, wordOfBytes_extract]

/-! ## Decode of encode -/

section

variable {op : Word}

theorem decode_of_family0 (h : fieldN1 op = 0x0) : decode op = decodeFamily0 op := by rw [decode, h]; rfl
theorem decode_of_family8 (h : fieldN1 op = 0x8) : decode op = decodeFamily8 op := by rw [decode, h]; rfl
theorem decode_of_familyE (h : fieldN1 op = 0xE) : decode op = decodeFamilyE op := by rw [decode, h]; rfl
theorem decode_of_familyF (h : fieldN1 op = 0xF) : decode op = decodeFamilyF op := by rw [decode, h]; rfl

end

theorem sysAddrOk_iff (nnn : Addr12) :
    sysAddrOk nnn = true ↔ nnn.extractLsb' 0 8 ≠ 0xE0 ∧ nnn.extractLsb' 0 8 ≠ 0xEE := by
  simp [sysAddrOk]

/-- Decoding the encoding of a well-formed instruction gives it back. Each form's fields read back as they were put
in, so the primary key, and in the families 0x0, 0x8, 0xE and 0xF the secondary key, picks the instruction's own
entry of the tables (R72, R75 to R79). Well-formedness is used by SYS alone. -/
theorem decode_encode {i : Instr} (hi : i.wellFormed = true) : decode (encode i) = .ok i := by
  cases i <;> rw [encode]
  case sys nnn =>
    obtain ⟨hcls, hret⟩ := (sysAddrOk_iff nnn).1 hi
    rw [decode_of_family0 (fieldN1_formNNN _ _), decodeFamily0, fieldKK_formNNN, if_neg hcls, if_neg hret,
      fieldNNN_formNNN]
  case cls | ret => rfl
  case jp | call | ldI | jpV0 => rw [decode, fieldN1_formNNN, fieldNNN_formNNN]; rfl
  case seImm | sneImm | ldImm | addImm | rnd =>
    rw [decode, fieldN1_formXKK, fieldX_formXKK, fieldKK_formXKK]; rfl
  case seReg | sneReg | drw => rw [decode, fieldN1_formXYN, fieldX_formXYN, fieldY_formXYN, fieldN_formXYN]; rfl
  case ldReg | or | and | xor | addReg | sub | shr | subn | shl =>
    rw [decode_of_family8 (fieldN1_formXYN ..), decodeFamily8, fieldX_formXYN, fieldY_formXYN, fieldN_formXYN]; rfl
  case skp | sknp =>
    rw [decode_of_familyE (fieldN1_formXKK ..), decodeFamilyE, fieldX_formXKK, fieldKK_formXKK]; rfl
  case ldXDT | ldK | ldDT | ldST | addI | ldF | ldB | ldMemX | ldXMem =>
    rw [decode_of_familyF (fieldN1_formXKK ..), decodeFamilyF, fieldX_formXKK, fieldKK_formXKK]; rfl

end Sys2Proof

namespace Sys2Proof.Machine

open Sys2Proof

/-! ## The fetch -/

theorem State.fetch_of_le {s : State} (h : s.pc.toNat ≤ 0xFFE) :
    s.fetch = .ok (wordOfBytes (s.readByte s.pc.toNat) (s.readByte (s.pc.toNat + 1))) := by
  rcases s.fetch_cases with ⟨_, e⟩ | ⟨hpc, _⟩
  · exact e
  · omega

/-- Two bytes stored at pc are the bytes the next fetch reads (R53, R64). -/
theorem State.fetch_writeBytes_pc {s : State} (first second : Byte) (h : s.pc.toNat ≤ 0xFFE) :
    (s.writeBytes s.pc.toNat [first, second]).fetch = .ok (wordOfBytes first second) := by
  have hpc : (s.writeBytes s.pc.toNat [first, second]).pc = s.pc := rfl
  rw [State.fetch_of_le (by rwa [hpc]), hpc]
  simp [State.readByte_writeBytes]

/-- The first address above 0xFFF of a fetch beyond 0xFFE (R56). -/
theorem max_pc_of_beyond {a : Nat} (h : 0xFFE < a) : max a 0x1000 = if a = 0xFFF then 0x1000 else a := by
  split <;> omega

/-! ## How a cycle ends -/

/-- Every step answers a next state (R88). -/
theorem step_next (s : State) : ∃ t, step s = .next t := by
  cases hh : s.halted with
  | true => exact ⟨_, step_of_halted hh⟩
  | false =>
    rcases s.fetch_cases with ⟨_, hf⟩ | ⟨hpc, _⟩
    · cases hd : decode (s.readByte s.pc.toNat ++ s.readByte (s.pc.toNat + 1)) with
      | error e => exact ⟨_, step_of_illegal hh hf hd⟩
      | ok i =>
        obtain ⟨u, he⟩ := exec_next i (s.beginExecute _)
        exact ⟨_, step_of_exec hh hf hd he⟩
    · exact ⟨_, step_of_fetch_beyond hh hpc⟩

/-- The end of a cycle is without a fault, or it is the state before with a record (R88, R206). -/
theorem State.endCycle_retires_or_faults (before after : State) :
    (before.endCycle after).fault = none ∨ ∃ r, before.endCycle after = { before with fault := some r } := by
  rcases before.endCycle_cases after with ⟨r, _, e⟩ | ⟨hnone, e⟩
  · exact .inr ⟨r, e⟩
  · left; rw [e]; split <;> exact hnone

/-- A step of a running core retires, or it writes only the fault record: a fetch beyond 0xFFE and an illegal opcode
take their fault at once, and an executed instruction goes through the end of the cycle. -/
theorem step_retires_or_faults {s t : State} (hs : s.fault = none) (h : step s = .next t) :
    t.fault = none ∨ ∃ r, t = { s with fault := some r } := by
  rcases step_cases h with ⟨_, rfl⟩ | ⟨_, _, rfl⟩ | ⟨_, _, _, _, _, rfl⟩ | ⟨_, _, _, u, _, _, _, rfl⟩
  · exact .inl hs
  · exact .inr ⟨_, rfl⟩
  · exact .inr ⟨_, rfl⟩
  · exact s.endCycle_retires_or_faults u

end Sys2Proof.Machine

namespace Sys2Proof.Claims

open Sys2Proof Sys2Proof.Machine

/-- Settles O2: `decode_encode`, and the two bytes of a word make the word again. -/
theorem decodeOfEncodeIsTheInstruction : Obligations.DecodeOfEncodeIsTheInstruction := by
  intro i rest hi
  refine ⟨decode_encode hi, ?_⟩
  rw [decodeBytes_extract, decode_encode hi]; rfl

/-- Settles O9: every step answers a next state, and a running core's retires or writes only the record. -/
theorem everyCycleRetiresOrFaults : Obligations.EveryCycleRetiresOrFaults := by
  intro s hs
  obtain ⟨t, h⟩ := step_next s
  exact ⟨t, h, step_retires_or_faults hs h⟩

/-- Settles O17: the fetch reads the two stored bytes, which make the word. -/
theorem storedWordIsFetched : Obligations.StoredWordIsFetched := by
  intro s op h
  rw [State.fetch_writeBytes_pc _ _ h, wordOfBytes_extract]

/-- Settles O6: the fetch's fault, with the first out-of-range address by the two cases of pc. -/
theorem fetchAboveFFEFaults : Obligations.FetchAboveFFEFaults := by
  intro s hs hpc
  rw [step_of_fetch_beyond (s.not_halted_iff.2 hs) hpc, max_pc_of_beyond hpc]; rfl

end Sys2Proof.Claims

/-! PROOFS. The encoding statements (30_encoding.md): which words an instruction stands for, which words are illegal,
and what a cycle does with either. -/

namespace Sys2Proof

/-! ## Fields of a masked word -/

section

variable {mask : Word} (op : Word)

theorem fieldN1_and (hm : fieldN1 mask = 0xF#4) : fieldN1 (op &&& mask) = fieldN1 op := by
  rw [fieldN1, BitVec.extractLsb'_and, ← fieldN1, ← fieldN1, hm]; exact BitVec.and_allOnes

theorem fieldX_and (hm : mask.extractLsb' 8 4 = 0xF#4) : fieldX (op &&& mask) = fieldX op := by
  rw [fieldX, BitVec.extractLsb'_and, hm]; exact congrArg BitVec.toFin BitVec.and_allOnes

theorem fieldY_and (hm : mask.extractLsb' 4 4 = 0xF#4) : fieldY (op &&& mask) = fieldY op := by
  rw [fieldY, BitVec.extractLsb'_and, hm]; exact congrArg BitVec.toFin BitVec.and_allOnes

theorem fieldKK_and (hm : fieldKK mask = 0xFF#8) : fieldKK (op &&& mask) = fieldKK op := by
  rw [fieldKK, BitVec.extractLsb'_and, ← fieldKK, ← fieldKK, hm]; exact BitVec.and_allOnes

theorem fieldN_and_of_zero (hm : fieldN mask = 0x0#4) : fieldN (op &&& mask) = 0x0#4 := by
  rw [fieldN, BitVec.extractLsb'_and, ← fieldN, ← fieldN, hm]; exact BitVec.and_zero

end

/-! ## A word is the form of its own fields -/

section

variable {op : Word} {h : BitVec 4} {kk : Byte} {n : BitVec 4}

theorem formNNN_fields (hN1 : fieldN1 op = h) : formNNN h (fieldNNN op) = op := by
  subst hN1
  apply BitVec.eq_of_getLsbD_eq; intro i hi
  rw [formNNN_bit, fieldNNN, fieldN1, BitVec.getLsbD_extractLsb', BitVec.getLsbD_extractLsb']
  interval_cases i <;> simp

theorem formXKK_fields (hN1 : fieldN1 op = h) (hKK : fieldKK op = kk) : formXKK h (fieldX op) kk = op := by
  subst hN1 hKK
  apply BitVec.eq_of_getLsbD_eq; intro i hi
  rw [formXKK_bit, fieldKK, fieldX, fieldN1, BitVec.ofFin_toFin, BitVec.getLsbD_extractLsb',
    BitVec.getLsbD_extractLsb', BitVec.getLsbD_extractLsb']
  interval_cases i <;> simp

theorem formXYN_fields (hN1 : fieldN1 op = h) (hN : fieldN op = n) :
    formXYN h (fieldX op) (fieldY op) n = op := by
  subst hN1 hN
  apply BitVec.eq_of_getLsbD_eq; intro i hi
  rw [formXYN_bit, fieldN, fieldY, fieldX, fieldN1, BitVec.ofFin_toFin, BitVec.ofFin_toFin,
    BitVec.getLsbD_extractLsb', BitVec.getLsbD_extractLsb', BitVec.getLsbD_extractLsb', BitVec.getLsbD_extractLsb']
  interval_cases i <;> simp

/-- The form with 0 in its low nibble is the word with that nibble cleared. -/
theorem formXYN_fields_zero (hN1 : fieldN1 op = h) :
    formXYN h (fieldX op) (fieldY op) 0x0 = op &&& ~~~0x000F := by
  have hcleared := formXYN_fields ((fieldN1_and op rfl).trans hN1) (fieldN_and_of_zero op (mask := ~~~0x000F) rfl)
  rwa [fieldX_and op rfl, fieldY_and op rfl] at hcleared

theorem fieldNNN_low (op : Word) : (fieldNNN op).extractLsb' 0 8 = fieldKK op := by
  rw [← fieldKK_formNNN (fieldN1 op), formNNN_fields rfl]

end

/-! ## The words of an instruction -/

/-- `op` is a word of `i`: the encoding of the well-formed `i` but for the bits R80 says are ignored. -/
def isWordOf (op : Word) (i : Instr) : Prop :=
  i.wellFormed = true ∧ encode i = op &&& ~~~(ignoredBits i)

theorem and_not_zero (op : Word) : op &&& ~~~0 = op := BitVec.and_allOnes

section

variable {op : Word} {i : Instr}

/-- An instruction without ignored bits has one word. -/
theorem isWordOf_of_encode_eq (hwf : i.wellFormed = true) (hign : ignoredBits i = 0) (he : encode i = op) :
    isWordOf op i := by
  refine ⟨hwf, ?_⟩
  rw [hign, and_not_zero, he]

theorem isWordOf_of_decodeFamily0 (h0 : fieldN1 op = 0x0) (h : decodeFamily0 op = .ok i) : isWordOf op i := by
  unfold decodeFamily0 at h
  split_ifs at h with hcls hret <;> cases h
  · exact ⟨rfl, by change _ = op &&& 0xF0FF#16; rw [and_F0FF, h0, hcls]; rfl⟩
  · exact ⟨rfl, by change _ = op &&& 0xF0FF#16; rw [and_F0FF, h0, hret]; rfl⟩
  · refine isWordOf_of_encode_eq ((sysAddrOk_iff _).2 ?_) rfl (formNNN_fields h0)
    rw [fieldNNN_low]; exact ⟨hcls, hret⟩

theorem isWordOf_of_decodeFamily8 (h8 : fieldN1 op = 0x8) (h : decodeFamily8 op = .ok i) : isWordOf op i := by
  unfold decodeFamily8 at h
  split_ifs at h with hkey hkey hkey hkey hkey hkey hkey hkey hkey <;> cases h <;>
    exact isWordOf_of_encode_eq rfl rfl (formXYN_fields h8 hkey)

theorem isWordOf_of_decodeFamilyE (hE : fieldN1 op = 0xE) (h : decodeFamilyE op = .ok i) : isWordOf op i := by
  unfold decodeFamilyE at h
  split_ifs at h with hkey hkey <;> cases h <;>
    exact isWordOf_of_encode_eq rfl rfl (formXKK_fields hE hkey)

theorem isWordOf_of_decodeFamilyF (hF : fieldN1 op = 0xF) (h : decodeFamilyF op = .ok i) : isWordOf op i := by
  unfold decodeFamilyF at h
  split_ifs at h with hkey hkey hkey hkey hkey hkey hkey hkey hkey <;> cases h <;>
    exact isWordOf_of_encode_eq rfl rfl (formXKK_fields hF hkey)

/-- A word that decodes is a word of its instruction. Outside the four families with a secondary key the fields are
the operands, and they make the word again; only the low nibble of 5xy_ and 9xy_ is no operand (R75, R80). -/
theorem isWordOf_of_decode (h : decode op = .ok i) : isWordOf op i := by
  have nibble : ∀ n : BitVec 4, n = 0x0 ∨ n = 0x8 ∨ n = 0xE ∨ n = 0xF ∨ (n = 0x1 ∨ n = 0x2 ∨ n = 0xA ∨ n = 0xB) ∨
      (n = 0x3 ∨ n = 0x4 ∨ n = 0x6 ∨ n = 0x7 ∨ n = 0xC) ∨ (n = 0x5 ∨ n = 0x9) ∨ n = 0xD := by decide
  rcases nibble (fieldN1 op) with hn | hn | hn | hn | hnnn | hxkk | hxy | hn
  · exact isWordOf_of_decodeFamily0 hn (decode_of_family0 hn ▸ h)
  · exact isWordOf_of_decodeFamily8 hn (decode_of_family8 hn ▸ h)
  · exact isWordOf_of_decodeFamilyE hn (decode_of_familyE hn ▸ h)
  · exact isWordOf_of_decodeFamilyF hn (decode_of_familyF hn ▸ h)
  · rcases hnnn with hn | hn | hn | hn <;> rw [decode, hn] at h <;> cases h <;>
      exact isWordOf_of_encode_eq rfl rfl (formNNN_fields hn)
  · rcases hxkk with hn | hn | hn | hn | hn <;> rw [decode, hn] at h <;> cases h <;>
      exact isWordOf_of_encode_eq rfl rfl (formXKK_fields hn rfl)
  · rcases hxy with hn | hn <;> rw [decode, hn] at h <;> cases h <;> exact ⟨rfl, formXYN_fields_zero hn⟩
  · rw [decode, hn] at h; cases h
    exact isWordOf_of_encode_eq rfl rfl (formXYN_fields hn rfl)

/-- Every word of an instruction decodes to it: where bits are ignored, the dispatch looks at fields that hold none of
them; where none are, the word is the encoding (R80). -/
theorem decode_of_isWordOf (h : isWordOf op i) : decode op = .ok i := by
  obtain ⟨hwf, he⟩ := h
  cases i
  case cls | ret =>
    have hN1 := congrArg fieldN1 he
    have hKK := congrArg fieldKK he
    rw [fieldN1_and op rfl] at hN1
    rw [fieldKK_and op rfl] at hKK
    rw [decode_of_family0 hN1.symm, decodeFamily0, ← hKK]; rfl
  case seReg | sneReg =>
    change formXYN _ _ _ _ = op &&& ~~~0x000F at he
    have hN1 := congrArg fieldN1 he
    have hX := congrArg fieldX he
    have hY := congrArg fieldY he
    rw [fieldN1_formXYN, fieldN1_and op rfl] at hN1
    rw [fieldX_formXYN, fieldX_and op rfl] at hX
    rw [fieldY_formXYN, fieldY_and op rfl] at hY
    rw [decode, ← hN1, ← hX, ← hY]; rfl
  all_goals
    have hop : encode _ = op := he.trans (and_not_zero op)
    rw [← hop, decode_encode hwf]

/-- The words that decode to an instruction are its encoding with any value in the ignored bits (R80). -/
theorem decode_eq_ok_iff : decode op = .ok i ↔ isWordOf op i := ⟨isWordOf_of_decode, decode_of_isWordOf⟩

end

end Sys2Proof

namespace Sys2Proof.Machine

open Sys2Proof Sys2Proof.Claims

/-! ## What the words of R81 decode to -/

section

variable {op : Word}

theorem decodeFamily8_of_unhandled
    (h : fieldN op ∈ [0x8#4, 0x9#4, 0xA#4, 0xB#4, 0xC#4, 0xD#4, 0xF#4]) :
    decodeFamily8 op = .error (.illegalOpcode op) := by
  simp only [List.mem_cons, List.not_mem_nil, or_false] at h
  rcases h with h | h | h | h | h | h | h <;> rw [decodeFamily8, h] <;> rfl

theorem decodeFamilyE_of_unhandled (h : fieldKK op ∉ [0x9E#8, 0xA1#8]) :
    decodeFamilyE op = .error (.illegalOpcode op) := by
  simp only [List.mem_cons, List.not_mem_nil, or_false, not_or] at h
  simp [decodeFamilyE, h]

theorem decodeFamilyF_of_unhandled
    (h : fieldKK op ∉ [0x07#8, 0x0A#8, 0x15#8, 0x18#8, 0x1E#8, 0x29#8, 0x33#8, 0x55#8, 0x65#8]) :
    decodeFamilyF op = .error (.illegalOpcode op) := by
  simp only [List.mem_cons, List.not_mem_nil, or_false, not_or] at h
  simp [decodeFamilyF, h]

/-- The first three classes of R81 are illegal opcodes. -/
theorem decode_of_illegalSlot (h : illegalSlot op) : decode op = .error (.illegalOpcode op) := by
  rcases h with ⟨h8, hkey⟩ | ⟨hE, hkey⟩ | ⟨hF, hkey⟩
  · rw [decode_of_family8 h8, decodeFamily8_of_unhandled hkey]
  · rw [decode_of_familyE hE, decodeFamilyE_of_unhandled hkey]
  · rw [decode_of_familyF hF, decodeFamilyF_of_unhandled hkey]

/-- The fourth class of R81 decodes to SYS (log entry 5). -/
theorem decode_of_sysWord (h : sysWord op) : decode op = .ok (.sys (fieldNNN op)) := by
  obtain ⟨h0, hkey⟩ := h
  simp only [List.mem_cons, List.not_mem_nil, or_false, not_or] at hkey
  obtain ⟨hcls, hret⟩ := hkey
  rw [decode_of_family0 h0]; exact (if_neg hcls).trans (if_neg hret)

end

/-! ## A cycle from its fetched word -/

section

variable {s : State}

theorem State.fetch_eq_wordAtPc (h : s.pc.toNat ≤ 0xFFE) : s.fetch = .ok (wordAtPc s) := State.fetch_of_le h

theorem exec_sys_of_fault_policy (nnn : Addr12) (h : s.config.sysPolicy = .fault) :
    exec (.sys nnn) s = .next (s.raise .illegalOpcode s.opcode.toNat) := by
  simp [exec, execSys, h]

/-- A SYS word under `sys_policy = fault` ends its cycle as an opcode without a handler does (R91, R101). -/
theorem step_of_sysWord (hs : s.fault = none) (hpc : s.pc.toNat ≤ 0xFFE) (hw : sysWord (wordAtPc s))
    (hpolicy : s.config.sysPolicy = .fault) :
    step s = .next (s.takeFault .illegalOpcode (wordAtPc s) s.pc (wordAtPc s).toNat) := by
  have he := exec_sys_of_fault_policy (s := s.beginExecute (wordAtPc s)) (fieldNNN (wordAtPc s)) hpolicy
  rw [step_of_exec (s.not_halted_iff.2 hs) (State.fetch_eq_wordAtPc hpc) (decode_of_sysWord hw) he,
    State.endCycle_of_fault rfl, State.beginExecute_pc, BitVec.add_sub_cancel]
  rfl

/-- A cycle whose instruction is known answers the end of the cycle on what the instruction answers (R88). -/
theorem step_of_nextInstr {i : Instr} (hs : s.fault = none) (hi : s.nextInstr = some i) :
    ∃ u, exec i (s.beginExecute (wordAtPc s)) = .next u ∧ step s = .next (s.endCycle u) := by
  obtain ⟨op, hf, hd⟩ := State.nextInstr_eq_some hi
  obtain ⟨_, rfl⟩ := State.fetch_eq_ok hf
  obtain ⟨u, he⟩ := exec_next i (s.beginExecute (wordAtPc s))
  exact ⟨u, he, step_of_exec (s.not_halted_iff.2 hs) hf hd he⟩

end

/-! ## The timers -/

/-- The timers an instruction leaves: LD DT and LD ST write one, and no other instruction writes any (R30, R31). -/
theorem exec_timers {i : Instr} {s t : State} (h : exec i s = .next t) :
    t.dt = dtWritten s i ∧ t.st = stWritten s i := by
  cases i
  case ret =>
    rcases s.sp_zero_or_succ with h0 | ⟨k, hk⟩
    · rw [exec_ret_of_empty h0] at h; cases h; exact ⟨rfl, rfl⟩
    · rw [exec_ret_of_succ hk] at h; cases h; exact ⟨rfl, rfl⟩
  case call nnn =>
    by_cases hlt : s.sp.val < 16
    · rw [exec_call_of_lt nnn hlt] at h; cases h; exact ⟨rfl, rfl⟩
    · rw [exec_call_of_full nnn (by omega)] at h; cases h; exact ⟨rfl, rfl⟩
  case seImm | sneImm | seReg | sneReg => cases h; rw [State.skipIf_eq]; exact ⟨rfl, rfl⟩
  case addI => cases h; split <;> exact ⟨rfl, rfl⟩
  case sys | skp | sknp | ldK | drw | ldB | ldMemX | ldXMem =>
    simp only [exec, execSys, execSkp, execSknp, execLdK, execDrw, execLdB, execLdMemX, execLdXMem,
      State.skipIf_eq] at h
    split at h <;> cases h <;> exact ⟨rfl, rfl⟩
  all_goals cases h; exact ⟨rfl, rfl⟩

theorem dtWritten_beginExecute (s : State) (op : Word) (i : Instr) :
    dtWritten (s.beginExecute op) i = dtWritten s i := by
  cases i <;> rfl

theorem stWritten_beginExecute (s : State) (op : Word) (i : Instr) :
    stWritten (s.beginExecute op) i = stWritten s i := by
  cases i <;> rfl

/-- A cycle that ends without a fault is what its instruction left, ticked under `per_cycle` (R86). -/
theorem State.endCycle_eq_of_retired {before after : State} (h : (before.endCycle after).fault = none) :
    before.endCycle after = if after.config.timerCoupling = .perCycle then after.tick else after := by
  rcases before.endCycle_cases after with ⟨r, _, e⟩ | ⟨_, e⟩
  · rw [e] at h; cases h
  · exact e

end Sys2Proof.Machine

namespace Sys2Proof.Claims

open Sys2Proof Sys2Proof.Machine

/-- Settles O3: the words of an instruction are those of `isWordOf`, which sees no more of a word than is left when
the ignored bits are cleared. -/
theorem dispatchIgnoresOnlyTheNamedBits : Obligations.DispatchIgnoresOnlyTheNamedBits := by
  intro op i h
  obtain ⟨hwf, he⟩ := decode_eq_ok_iff.1 h
  exact ⟨⟨hwf, he⟩, fun op' hsame => decode_eq_ok_iff.2 ⟨hwf, he.trans hsame.symm⟩⟩

/-- Settles O4: the three classes decode to nothing, and a word that decodes to nothing is in one of them. -/
theorem illegalWordsAreExactlyTheUnhandledKeys : Obligations.IllegalWordsAreExactlyTheUnhandledKeys := by
  refine fun op => ⟨decode_of_illegalSlot, fun hlegal => ?_⟩
  cases hd : decode op with
  | ok i => exact ⟨i, rfl⟩
  | error e => exact absurd (illegalSlot_of_decode_error hd) hlegal

/-- Settles O8: the first three classes of R81 end at the decoder, the fourth in SYS, both with the same record. -/
theorem illegalOpcodeIsTaken : Obligations.IllegalOpcodeIsTaken := by
  rintro s hs hpc (hslot | ⟨hsys, hpolicy⟩)
  · exact step_of_illegal (s.not_halted_iff.2 hs) (State.fetch_eq_wordAtPc hpc) (decode_of_illegalSlot hslot)
  · exact step_of_sysWord hs hpc hsys hpolicy

/-- Settles O13: the timers as the instruction left them, and the end of a retired cycle under either coupling, which
no instruction writes. -/
theorem retiredCycleTicksPerCoupling : Obligations.RetiredCycleTicksPerCoupling := by
  intro s t i hs hi h ht
  obtain ⟨u, he, hstep⟩ := step_of_nextInstr hs hi
  cases h.symm.trans hstep
  obtain ⟨hdt, hst⟩ := exec_timers he
  rw [dtWritten_beginExecute] at hdt
  rw [stWritten_beginExecute] at hst
  have hconfig : u.config = s.config := (exec_config_key he).1
  rw [State.endCycle_eq_of_retired ht, hconfig]
  constructor <;> intro hcoupling
  · rw [if_pos hcoupling, ← hdt, ← hst]; exact ⟨rfl, rfl⟩
  · rw [if_neg (by simp [hcoupling])]; exact ⟨hdt, hst⟩

/-- Settles O1: the dispatch tables evaluated at the twelve words. -/
theorem specWordsDecode : Obligations.SpecWordsDecode := by
  unfold Obligations.SpecWordsDecode; decide

/-- Settles O5: the cycle of a decoded word, ended with the fault its instruction left, or else with the tick. -/
theorem stepRunsTheDecodedInstruction : Obligations.StepRunsTheDecodedInstruction := by
  intro s i hs hpc hd
  obtain ⟨u, he⟩ := exec_next i { s with opcode := wordAtPc s, pc := s.pc + 2 }
  rw [he, step_of_exec (s.not_halted_iff.2 hs) (State.fetch_eq_wordAtPc hpc) hd he]
  refine congrArg Host.Outcome.next ?_
  split
  case h_1 r hu => exact State.endCycle_of_fault hu
  case h_2 hu => exact State.endCycle_of_retires hu

/-- Settles O7: the step of a halted core is its own state, whose record is the reply. -/
theorem haltedCycleChangesNothing : Obligations.HaltedCycleChangesNothing := by
  intro s r hr
  have hstep : step s = .next s := step_of_halted (s.halted_iff.2 (by simp [hr]))
  refine ⟨hstep, ?_⟩
  simp only [hostCall, hstep, cycleReply, hr]

end Sys2Proof.Claims

/-! PROOFS. The control flow statements (40_control_flow.md): what SYS, CALL, the jumps and the skips answer; and the
invariant of the machine, whose bounds on pc and on the return addresses are those of the jumps, RET and CALL. -/

namespace Sys2Proof.Machine

open Sys2Proof Sys2Proof.Claims

/-! ## SYS, the jumps and the skips -/

theorem exec_sys_of_nop_policy (nnn : Addr12) {s : State} (h : s.config.sysPolicy = .nop) :
    exec (.sys nnn) s = .next s := by
  simp [exec, execSys, h]

theorem exec_jp (nnn : Addr12) (s : State) : exec (.jp nnn) s = .next (s.setPc (addrOperand nnn)) := rfl

theorem exec_jpV0 (nnn : Addr12) (s : State) : exec (.jpV0 nnn) s = .next (s.setPc (s.indexedTarget nnn)) := rfl

/-- A skip on a test that decides `p`. -/
theorem State.skipIf_of_iff (s : State) {c : Bool} {p : Prop} [Decidable p] (h : c = true ↔ p) :
    s.skipIf c = if p then { s with pc := s.pc + 2 } else s :=
  if_congr h rfl rfl

/-! ## What an instruction leaves of the parts the invariant speaks of -/

section

variable {i : Instr} {s u : State}

/-- A block from I that passes its range check ends inside memory (R56, R193). -/
theorem State.fits_of_blockFault_eq_none {n : Nat} (h : s.blockFault n = none) (hn : n ≠ 0) :
    s.base + n ≤ 0x1000 :=
  ((firstOutOfRange_eq_none s.base n).1 h).resolve_left hn

/-- An instruction leaves memory alone, or it stores one block from I, inside the 4096 bytes (R52, R193). -/
theorem exec_mem (h : exec i s = .next u) :
    u.mem = s.mem ∨ ∃ ws, s.base + ws.length ≤ 0x1000 ∧ u.mem = Memory.writeBytes s.config s.mem s.base ws := by
  cases i
  case ldB x =>
    simp only [exec, execLdB] at h
    split at h <;> cases h
    case h_1 => exact .inl rfl
    case h_2 hb =>
      have hfits : s.base + 3 ≤ 0x1000 := State.fits_of_blockFault_eq_none hb (by decide)
      exact .inr ⟨bcdDigits (s.getV x), hfits, rfl⟩
  case ldMemX x =>
    simp only [exec, execLdMemX] at h
    split at h <;> cases h
    case h_1 => exact .inl rfl
    case h_2 hb =>
      have hfits := State.fits_of_blockFault_eq_none hb (Nat.succ_ne_zero _)
      exact .inr ⟨s.regsUpTo x, by rwa [State.regsUpTo_length], rfl⟩
  case ret =>
    rcases s.sp_zero_or_succ with h0 | ⟨k, hk⟩
    · rw [exec_ret_of_empty h0] at h; cases h; exact .inl rfl
    · rw [exec_ret_of_succ hk] at h; cases h; exact .inl rfl
  case call nnn =>
    by_cases hlt : s.sp.val < 16
    · rw [exec_call_of_lt nnn hlt] at h; cases h; exact .inl rfl
    · rw [exec_call_of_full nnn (by omega)] at h; cases h; exact .inl rfl
  case seImm | sneImm | seReg | sneReg => cases h; exact .inl (State.skipIf_mem _ _)
  case addI => cases h; left; split <;> rfl
  case sys | skp | sknp | ldK | drw | ldXMem =>
    simp only [exec, execSys, execSkp, execSknp, execLdK, execDrw, execLdXMem, State.skipIf_eq] at h
    split at h <;> cases h <;> exact .inl rfl
  all_goals cases h; exact .inl rfl

/-- No instruction takes memory out of its canonical form. -/
theorem exec_memWf (h : exec i s = .next u) (hm : Memory.wf s.config s.mem) : Memory.wf u.config u.mem := by
  rw [(exec_config_key h).1]
  rcases exec_mem h with e | ⟨ws, hfits, e⟩ <;> rw [e]
  · exact hm
  · exact Memory.writeBytes_wf _ ws _ _ hm hfits

/-- A stack entry in use after an instruction was in use before it with the same value, or it is the pc that CALL
pushed (R28, R29, R104). -/
theorem exec_stack_entry (h : exec i s = .next u) {k : Fin 16} (hk : k.val < u.sp.val) :
    (k.val < s.sp.val ∧ u.stack[k] = s.stack[k]) ∨ u.stack[k] = s.pc := by
  cases i
  case ret =>
    rcases s.sp_zero_or_succ with h0 | ⟨j, hj⟩
    · rw [exec_ret_of_empty h0] at h; cases h; exact .inl ⟨hk, rfl⟩
    · rw [exec_ret_of_succ hj] at h; cases h
      have hkj : k.val < j.val := hk
      exact .inl ⟨by omega, rfl⟩
  case call nnn =>
    by_cases hlt : s.sp.val < 16
    · rw [exec_call_of_lt nnn hlt] at h; cases h
      have hks : k.val < s.sp.val + 1 := hk
      by_cases htop : s.sp.val = k.val
      · right; simp [htop]
      · left; exact ⟨by omega, by simp [htop]⟩
    · rw [exec_call_of_full nnn (by omega)] at h; cases h; exact .inl ⟨hk, rfl⟩
  all_goals
    rcases exec_cases h with ⟨_, _, rfl, _⟩ | kept
    · exact .inl ⟨hk, rfl⟩
    · rw [kept.sp nofun nofun] at hk
      exact .inl ⟨hk, by rw [kept.stack nofun]⟩

/-- The bounds of pc after a retired cycle: a jump or CALL reaches 0xFFF, JP V0 0x10FE, RET the highest return
address, and any other instruction at most 4 beyond a fetched word (R26, R102, R109). -/
theorem pc_le_of_pcAfter (hpc : s.pc.toNat ≤ 0xFFE)
    (hstack : ∀ k : Fin 16, k.val < s.sp.val → (s.stack[k]).toNat ≤ 0x1000) (h : pcAfter s u i) :
    u.pc.toNat ≤ 0x10FE := by
  have h2 : (s.pc + 2).toNat ≤ 0x10FE := by bv_omega
  have h4 : (s.pc + 4).toNat ≤ 0x10FE := by bv_omega
  cases i
  case jp nnn | call nnn =>
    have htarget : u.pc.toNat = nnn.toNat := h
    omega
  case jpV0 nnn =>
    have htarget : u.pc.toNat = nnn.toNat + (s.getV 0).toNat := h
    omega
  case ret =>
    obtain ⟨k, hk, e⟩ := h
    have hreturn := hstack k (by omega)
    rw [e]; omega
  case seImm | sneImm | seReg | sneReg => rw [h]; split <;> assumption
  case skp | sknp => obtain ⟨_, _, e⟩ := h; rw [e]; split <;> assumption
  case ldK =>
    rw [h]; split
    · exact h2
    · omega
  all_goals rw [h]; exact h2

end

/-! ## The invariant of the machine -/

section

variable {s : State}

/-- A fault that names pc and leaves everything else in place keeps the invariant (R206). -/
theorem State.Inv.with_fault (hinv : s.Inv) {r : FaultRecord} (hr : r.pc = s.pc) :
    { s with fault := some r }.Inv where
  memWf := hinv.memWf
  stackLow := hinv.stackLow
  pcLow := hinv.pcLow
  faultPc := by rintro _ ⟨⟩; exact hr

theorem State.Inv.tick (hinv : s.Inv) : s.tick.Inv where
  memWf := hinv.memWf
  stackLow := hinv.stackLow
  pcLow := hinv.pcLow
  faultPc := hinv.faultPc

/-- An instruction fetched inside memory that raises no fault keeps the invariant: what it can push is the address
after its own, and its pc is one of R26's. -/
theorem State.Inv.exec_keeps {i : Instr} {op : Word} {u : State} (hinv : s.Inv) (hpc : s.pc.toNat ≤ 0xFFE)
    (h : exec i (s.beginExecute op) = .next u) (hu : u.fault = none) : u.Inv where
  memWf := exec_memWf h hinv.memWf
  stackLow k hk := by
    have hnext : (s.pc + 2).toNat ≤ 0x1000 := by bv_omega
    rcases exec_stack_entry h hk with ⟨hused, e⟩ | e <;> rw [e]
    · exact hinv.stackLow k hused
    · exact hnext
  pcLow := pc_le_of_pcAfter hpc hinv.stackLow (exec_pcAfter h hu)
  faultPc r hr := by rw [hu] at hr; cases hr

/-- A retired cycle keeps the invariant. -/
theorem State.Inv.retired_keeps {t : State} (hinv : s.Inv) (hs : s.fault = none) (h : step s = .next t)
    (ht : t.fault = none) : t.Inv := by
  obtain ⟨i, u, hi, he, hu, htu⟩ := step_retired hs h ht
  obtain ⟨op, hf, -⟩ := State.nextInstr_eq_some hi
  obtain ⟨hpc, -⟩ := State.fetch_eq_ok hf
  have huinv : u.Inv := hinv.exec_keeps hpc he hu
  rcases htu with rfl | rfl
  exacts [huinv, huinv.tick]

end

end Sys2Proof.Machine

namespace Sys2Proof.Claims

open Sys2Proof Sys2Proof.Machine

/-- Settles O23: a halted core stays as it is, and a running one retires, or takes a fault whose record names pc and
changes nothing else. -/
theorem stepKeepsTheMachineInvariant : Obligations.StepKeepsTheMachineInvariant := by
  intro s t hinv h
  by_cases hs : s.fault = none
  · rcases step_retires_or_faults hs h with ht | ⟨r, rfl⟩
    · exact hinv.retired_keeps hs h ht
    · exact hinv.with_fault (onlyTheseFaultsAreTaken s _ r hs h rfl).1
  · rw [step_of_halted (s.halted_iff.2 hs)] at h; cases h; exact hinv

/-- Settles O35: CALL by the number of entries in use; the entry at sp alone is written. -/
theorem callPushesAndJumps : Obligations.CallPushesAndJumps := by
  refine fun nnn s => ⟨fun k hk => ?_, exec_call_of_full nnn⟩
  have hlt : s.sp.val < 16 := hk ▸ k.isLt
  refine ⟨_, exec_call_of_lt nnn hlt, rfl, addrOperand_toNat nnn, by rw [hk], by simp [hk], fun j hj => ?_⟩
  have hne : s.sp.val ≠ j.val := fun e => hj (Fin.ext (by rw [hk, e]))
  simp [hne]

/-- Settles O33: SYS under either policy. -/
theorem sysFollowsThePolicy : Obligations.SysFollowsThePolicy :=
  fun nnn _ => ⟨exec_sys_of_nop_policy nnn, exec_sys_of_fault_policy nnn⟩

/-- Settles O37: the two targets as numbers. -/
theorem jumpsSetPc : Obligations.JumpsSetPc :=
  fun nnn s => ⟨⟨_, exec_jp nnn s, rfl, addrOperand_toNat nnn⟩, ⟨_, exec_jpV0 nnn s, rfl, s.indexedTarget_toNat nnn⟩⟩

/-- Settles O38: both are `skipIf`, on a test that decides their condition. -/
theorem immediateSkips : Obligations.ImmediateSkips :=
  fun _ _ s => ⟨congrArg _ (s.skipIf_of_iff beq_iff_eq), congrArg _ (s.skipIf_of_iff bne_iff_ne)⟩

/-- Settles O39: as O38, with the second operand read from a register. -/
theorem registerSkips : Obligations.RegisterSkips :=
  fun _ _ s => ⟨congrArg _ (s.skipIf_of_iff beq_iff_eq), congrArg _ (s.skipIf_of_iff bne_iff_ne)⟩

end Sys2Proof.Claims

/-! PROOFS. The load and arithmetic statements (41_load_arith.md): what an instruction answers that writes one
register, a result and then VF, or I; and the results of the 8-bit operations as numbers. -/

namespace Sys2Proof.Machine

open Sys2Proof Sys2Proof.Claims

/-! ## The two register writes, in the claims' words -/

section

variable {s : State} {x : RegIx} {b : Byte}

theorem writesRegister_setV : writesRegister s (s.setV x b) x b :=
  ⟨rfl, by simp, fun k hk => by simp [hk]⟩

theorem flagByte_of_iff {f : Bool} {flag : Prop} [Decidable flag] (h : f = true ↔ flag) :
    flagByte f = if flag then 1 else 0 :=
  if_congr h rfl rfl

/-- A result that is the number `result`, then a flag that decides `flag` (R22, R120). -/
theorem writesResultThenFlag_setResultThenFlag {f : Bool} {result : Nat} {flag : Prop} [Decidable flag]
    (hresult : b.toNat = result) (hflag : f = true ↔ flag) :
    writesResultThenFlag s (s.setResultThenFlag x b f) x result flag := by
  refine ⟨rfl, ?_, fun hx => ?_, fun k hkx hkF => ?_⟩
  · rw [State.getV_setResultThenFlag, if_pos (show (15 : RegIx) = VF from rfl), flagByte_of_iff hflag]
  · rw [State.getV_setResultThenFlag, if_neg (show ¬ x = VF from hx), if_pos rfl, hresult]
  · rw [State.getV_setResultThenFlag, if_neg (show ¬ k = VF from hkF), if_neg hkx]

end

/-! ## Results as numbers -/

/-- The wrapped difference; the operands may borrow. -/
theorem byte_sub_toNat (a b : Byte) : (a - b).toNat = (256 + a.toNat - b.toNat) % 256 := by
  have hb : b.toNat ≤ 256 := Nat.le_of_lt b.isLt
  rw [BitVec.toNat_sub, ← Nat.sub_add_comm hb]

theorem byte_shiftRight_one_toNat (b : Byte) : (b >>> 1).toNat = b.toNat / 2 := by
  rw [BitVec.toNat_ushiftRight, Nat.shiftRight_eq_div_pow, Nat.pow_one]

theorem byte_shiftLeft_one_toNat (b : Byte) : (b <<< 1).toNat = 2 * b.toNat % 256 := by
  rw [BitVec.toNat_shiftLeft, Nat.shiftLeft_eq, Nat.pow_one, Nat.mul_comm]

/-- The sum of ADD I wraps at 65536 (R133). -/
theorem add_byteOperand_toNat (w : Word) (b : Byte) : (w + byteOperand b).toNat = (w.toNat + b.toNat) % 65536 := by
  rw [BitVec.toNat_add, byteOperand_toNat]

/-! ## Shifts -/

section

variable {s : State} {x : RegIx} (src : Byte)

theorem writesResultThenFlag_shiftRight :
    writesResultThenFlag s (s.setResultThenFlag x (src >>> 1) (shiftedOutRight src)) x
      (src.toNat / 2) (src.toNat % 2 = 1) :=
  writesResultThenFlag_setResultThenFlag (byte_shiftRight_one_toNat src) (shiftedOutRight_eq_true src)

theorem writesResultThenFlag_shiftLeft :
    writesResultThenFlag s (s.setResultThenFlag x (src <<< 1) (shiftedOutLeft src)) x
      (2 * src.toNat % 256) (src.toNat / 128 = 1) :=
  writesResultThenFlag_setResultThenFlag (byte_shiftLeft_one_toNat src) (shiftedOutLeft_eq_true src)

end

theorem State.shiftSource_of_no_quirk {s : State} (x y : RegIx) (h : s.config.shiftQuirk = false) :
    s.shiftSource x y = s.getV x := by
  rw [State.shiftSource, h]; rfl

theorem State.shiftSource_of_quirk {s : State} (x y : RegIx) (h : s.config.shiftQuirk = true) :
    s.shiftSource x y = s.getV y :=
  if_pos h

/-! ## What each instruction answers -/

section

variable (x y : RegIx) (kk : Byte) (nnn : Addr12) (s : State)

theorem exec_ldImm : exec (.ldImm x kk) s = .next (s.setV x kk) := rfl

theorem exec_ldReg : exec (.ldReg x y) s = .next (s.setV x (s.getV y)) := rfl

theorem exec_addImm : exec (.addImm x kk) s = .next (s.setV x (s.getV x + kk)) := rfl

theorem exec_or : exec (.or x y) s = .next (s.setV x (s.getV x ||| s.getV y)) := rfl

theorem exec_and : exec (.and x y) s = .next (s.setV x (s.getV x &&& s.getV y)) := rfl

theorem exec_xor : exec (.xor x y) s = .next (s.setV x (s.getV x ^^^ s.getV y)) := rfl

theorem exec_addReg : exec (.addReg x y) s =
    .next (s.setResultThenFlag x (s.getV x + s.getV y) (carryFlag (s.getV x) (s.getV y))) := rfl

theorem exec_sub : exec (.sub x y) s =
    .next (s.setResultThenFlag x (s.getV x - s.getV y) (noBorrowFlag (s.getV x) (s.getV y))) := rfl

theorem exec_subn : exec (.subn x y) s =
    .next (s.setResultThenFlag x (s.getV y - s.getV x) (noBorrowFlag (s.getV y) (s.getV x))) := rfl

theorem exec_shr : exec (.shr x y) s =
    .next (s.setResultThenFlag x (s.shiftSource x y >>> 1) (shiftedOutRight (s.shiftSource x y))) := rfl

theorem exec_shl : exec (.shl x y) s =
    .next (s.setResultThenFlag x (s.shiftSource x y <<< 1) (shiftedOutLeft (s.shiftSource x y))) := rfl

theorem exec_ldI : exec (.ldI nnn) s = .next (s.setI (addrOperand nnn)) := rfl

theorem exec_ldF : exec (.ldF x) s = .next (s.setI (s.glyphAddress (s.getV x))) := rfl

variable {s}

theorem exec_addI_of_flag_option (h : s.config.addIndexOverflowFlag = true) : exec (.addI x) s =
    .next ((s.setI (s.i + byteOperand (s.getV x))).setFlag (indexOverflowFlag s.i (s.getV x))) :=
  congrArg _ (if_pos h)

theorem exec_addI_of_no_flag_option (h : ¬ s.config.addIndexOverflowFlag = true) :
    exec (.addI x) s = .next (s.setI (s.i + byteOperand (s.getV x))) :=
  congrArg _ (if_neg h)

end

end Sys2Proof.Machine

namespace Sys2Proof.Claims

open Sys2Proof Sys2Proof.Machine

/-- Settles O42: the wrapped sum, then the carry. -/
theorem addRegisterSumAndCarry : Obligations.AddRegisterSumAndCarry := fun x y s =>
  ⟨_, exec_addReg x y s, writesResultThenFlag_setResultThenFlag (BitVec.toNat_add _ _) (carryFlag_eq_true _ _)⟩

/-- Settles O43: the wrapped difference, then the no-borrow flag. -/
theorem subDifferenceAndNoBorrow : Obligations.SubDifferenceAndNoBorrow := fun x y s =>
  ⟨_, exec_sub x y s, writesResultThenFlag_setResultThenFlag (byte_sub_toNat _ _) (noBorrowFlag_eq_true _ _)⟩

/-- Settles O44: as O43 with the operands exchanged. -/
theorem subnDifferenceAndNoBorrow : Obligations.SubnDifferenceAndNoBorrow := fun x y s =>
  ⟨_, exec_subn x y s, writesResultThenFlag_setResultThenFlag (byte_sub_toNat _ _) (noBorrowFlag_eq_true _ _)⟩

/-- Settles O45: half of the source and its bit 0, whichever register the quirk makes the source. -/
theorem shiftRightHalvesTheSource : Obligations.ShiftRightHalvesTheSource := by
  intro x y s
  refine ⟨_, exec_shr x y s, fun hquirk => ?_, fun hquirk => ?_⟩
  · rw [State.shiftSource_of_no_quirk x y hquirk]; exact writesResultThenFlag_shiftRight _
  · rw [State.shiftSource_of_quirk x y hquirk]; exact writesResultThenFlag_shiftRight _

/-- Settles O46: twice the source and its bit 7, whichever register the quirk makes the source. -/
theorem shiftLeftDoublesTheSource : Obligations.ShiftLeftDoublesTheSource := by
  intro x y s
  refine ⟨_, exec_shl x y s, fun hquirk => ?_, fun hquirk => ?_⟩
  · rw [State.shiftSource_of_no_quirk x y hquirk]; exact writesResultThenFlag_shiftLeft _
  · rw [State.shiftSource_of_quirk x y hquirk]; exact writesResultThenFlag_shiftLeft _

/-- Settles O48: the sum in either case, and a flag written over VF only under the option. -/
theorem addIndexSumAndOptionalFlag : Obligations.AddIndexSumAndOptionalFlag := by
  intro x s
  have hsum := add_byteOperand_toNat s.i (s.getV x)
  by_cases hopt : s.config.addIndexOverflowFlag = true
  · refine ⟨_, exec_addI_of_flag_option x hopt, rfl, hsum, fun k hk => ?_, ?_⟩
    · rw [State.getV_setFlag, if_neg (show ¬ k = VF from hk), State.getV_setI]
    · rw [if_pos hopt, State.getV_setFlag, if_pos (show (15 : RegIx) = VF from rfl)]
      exact flagByte_of_iff (indexOverflowFlag_eq_true _ _)
  · exact ⟨_, exec_addI_of_no_flag_option x hopt, rfl, hsum, fun _ _ => rfl, (if_neg hopt).symm⟩

/-- Settles O40: one register written by each; the sum wraps. -/
theorem loadsAndImmediateAddWriteOneRegister : Obligations.LoadsAndImmediateAddWriteOneRegister := by
  intro x y kk s
  have hadd : (s.setV x (s.getV x + kk)).getV x = s.getV x + kk := by rw [State.getV_setV, if_pos rfl]
  refine ⟨⟨_, exec_ldImm x kk s, writesRegister_setV⟩, ⟨_, exec_ldReg x y s, writesRegister_setV⟩,
    ⟨_, exec_addImm x kk s, ?_, ?_⟩⟩
  · rw [hadd]; exact writesRegister_setV
  · rw [hadd]; exact BitVec.toNat_add _ _

/-- Settles O41: one register written by each. -/
theorem logicWritesOneRegister : Obligations.LogicWritesOneRegister := fun x y s =>
  ⟨⟨_, exec_or x y s, writesRegister_setV⟩, ⟨_, exec_and x y s, writesRegister_setV⟩,
    ⟨_, exec_xor x y s, writesRegister_setV⟩⟩

/-- Settles O47: the two values of I as numbers. -/
theorem indexLoadsWriteI : Obligations.IndexLoadsWriteI := fun nnn x s =>
  ⟨⟨_, exec_ldI nnn s, rfl, addrOperand_toNat nnn⟩, ⟨_, exec_ldF x s, rfl, s.glyphAddress_toNat (s.getV x)⟩⟩

end Sys2Proof.Claims

/-! PROOFS. The display statements (42_display.md): the pixels of a sprite fall on different cells, so the loop of DRW
toggles each cell a pixel falls on exactly once; what CLS and DRW answer. -/

namespace Sys2Proof.Machine

open Sys2Proof Sys2Proof.Claims

/-! ## The cells of a sprite are distinct -/

section

variable {edge : DrawEdge} {p : Fin 64 × Fin 32}

/-- The cell of a pixel names its coordinates modulo the display's size, under either edge policy (R153). -/
theorem mod_of_place {px py : Nat} (h : place edge px py = some p) : px % 64 = p.1.val ∧ py % 32 = p.2.val := by
  have hplace := (place_eq_some edge px py p.1 p.2).1 h
  cases edge with
  | wrap => exact hplace
  | clip =>
    obtain ⟨hX, hY⟩ := hplace
    rw [hX, hY]; exact ⟨Nat.mod_eq_of_lt p.1.isLt, Nat.mod_eq_of_lt p.2.isLt⟩

theorem mod_of_mem_rowCells {x0 py : Nat} {row : Byte} (h : p ∈ rowCells edge x0 py row) : py % 32 = p.2.val := by
  obtain ⟨c, _, _, hplace⟩ := (mem_rowCells edge x0 py row p).1 h
  exact (mod_of_place hplace).2

/-- Eight columns in a row are distinct modulo 64. -/
theorem rowCells_nodup (x0 py : Nat) (row : Byte) : (rowCells edge x0 py row).Nodup := by
  refine List.pairwise_filterMap.2 (List.pairwise_lt_range.imp_of_mem ?_)
  rintro c c' hc hc' hlt p hp _ hp' rfl
  rw [List.mem_range] at hc hc'
  rw [Option.ite_none_right_eq_some] at hp hp'
  have hcol := (mod_of_place hp.2).1
  have hcol' := (mod_of_place hp'.2).1
  omega

/-- At most 32 rows are distinct modulo 32. -/
theorem spriteCells_nodup (x0 y0 : Nat) (rows : List Byte) (h : rows.length ≤ 32) :
    (spriteCells edge x0 y0 rows).Nodup := by
  induction rows generalizing y0 with
  | nil => exact List.nodup_nil
  | cons row rows ih =>
    rw [List.length_cons] at h
    refine List.nodup_append'.2 ⟨rowCells_nodup x0 y0 row, ih (y0 + 1) (by omega), fun p hp hp' => ?_⟩
    obtain ⟨r, hr, hpr⟩ := (mem_spriteCells edge x0 rows (y0 + 1) p).1 hp'
    have hrow := mod_of_mem_rowCells hp
    have hrow' := mod_of_mem_rowCells hpr
    omega

end

/-! ## The loop over distinct pixels -/

/-- XORing distinct cells toggles each once, and sets the flag if one of them was on (R152, R154). -/
theorem foldl_xorPixel (cells : List (Fin 64 × Fin 32)) (acc : Vector (Vector Bool 64) 32 × Bool)
    (h : cells.Nodup) :
    (∀ X Y, ((cells.foldl xorPixel acc).1[Y])[X] =
      if (X, Y) ∈ cells then !(acc.1[Y])[X] else (acc.1[Y])[X]) ∧
    ((cells.foldl xorPixel acc).2 = true ↔ acc.2 = true ∨ ∃ X Y, (X, Y) ∈ cells ∧ (acc.1[Y])[X] = true) := by
  induction cells generalizing acc with
  | nil => simp
  | cons p cells ih =>
    obtain ⟨x, y⟩ := p
    obtain ⟨hfresh, hcells⟩ := List.nodup_cons.1 h
    obtain ⟨hget, hflag⟩ := ih (xorPixel acc (x, y)) hcells
    have hxor := fun X Y => (xorPixel_spec acc x X y Y).1
    have hrest : ∀ X Y, (X, Y) ∈ cells → ((xorPixel acc (x, y)).1[Y])[X] = (acc.1[Y])[X] := fun X Y hm => by
      rw [hxor, if_neg]; rintro ⟨rfl, rfl⟩; exact hfresh hm
    constructor
    · intro X Y
      rw [List.foldl_cons, hget]
      by_cases hm : (X, Y) ∈ cells
      · rw [if_pos hm, if_pos (List.mem_cons_of_mem _ hm), hrest X Y hm]
      · rw [if_neg hm, hxor]; simp [hm]
    · rw [List.foldl_cons, hflag, (xorPixel_spec acc x x y y).2, Bool.or_eq_true, or_assoc]
      refine or_congr_right ⟨?_, ?_⟩
      · rintro (hon | ⟨X, Y, hm, hon⟩)
        · exact ⟨x, y, List.mem_cons_self, hon⟩
        · exact ⟨X, Y, List.mem_cons_of_mem _ hm, hrest X Y hm ▸ hon⟩
      · rintro ⟨X, Y, hm, hon⟩
        rcases List.mem_cons.1 hm with heq | hm
        · cases heq; exact .inl hon
        · exact .inr ⟨X, Y, hm, (hrest X Y hm).trans hon⟩

/-! ## The sprite of an instruction, and the state with it drawn -/

/-- The cells the pixels of `DRW Vx, Vy, n` fall on (R152, R153). -/
def State.spriteOf (s : State) (x y : RegIx) (n : Fin 16) : List (Fin 64 × Fin 32) :=
  spriteCells s.config.drawEdge (s.anchorX x) (s.anchorY y) (s.readBytes s.base n.val)

/-- The state `DRW Vx, Vy, n` leaves where its sprite bytes exist (R152, R154). -/
def State.withSprite (s : State) (x y : RegIx) (n : Fin 16) : State :=
  { s with disp := (drawPixels s.disp (s.spriteOf x y n)).1 }.setFlag (drawPixels s.disp (s.spriteOf x y n)).2

section

variable (s : State) (x y : RegIx) (n : Fin 16)

theorem State.spriteOf_nodup : (s.spriteOf x y n).Nodup := by
  refine spriteCells_nodup _ _ _ ?_
  rw [State.readBytes_length]; omega

/-- The list of cells is the claims' `spriteHits`. -/
theorem State.mem_spriteOf (X : Fin 64) (Y : Fin 32) : (X, Y) ∈ s.spriteOf x y n ↔ spriteHits s x y n X Y := by
  rw [State.spriteOf, mem_spriteCells]
  constructor
  · rintro ⟨r, hr, hmem⟩
    obtain ⟨c, hc, hbit, hplace⟩ := (mem_rowCells ..).1 hmem
    rw [State.readBytes_get] at hbit
    exact ⟨r, c, s.readBytes_length _ n.val ▸ hr, hc, hbit, (place_eq_some ..).1 hplace⟩
  · rintro ⟨r, c, hr, hc, hbit, hplace⟩
    refine ⟨r, (s.readBytes_length _ n.val).symm ▸ hr, (mem_rowCells ..).2 ⟨c, hc, ?_, (place_eq_some ..).2 hplace⟩⟩
    rw [State.readBytes_get]; exact hbit

theorem State.withSprite_cell (X : Fin 64) (Y : Fin 32) :
    (s.withSprite x y n).cell X Y = if (X, Y) ∈ s.spriteOf x y n then !s.cell X Y else s.cell X Y :=
  (foldl_xorPixel (s.spriteOf x y n) (s.disp, false) (s.spriteOf_nodup x y n)).1 X Y

theorem State.collision_iff : (drawPixels s.disp (s.spriteOf x y n)).2 = true ↔
    ∃ X Y, spriteHits s x y n X Y ∧ s.cell X Y = true := by
  simp only [← s.mem_spriteOf]
  exact (foldl_xorPixel (s.spriteOf x y n) (s.disp, false) (s.spriteOf_nodup x y n)).2.trans
    (or_iff_right Bool.false_ne_true)

theorem State.withSprite_getV_VF :
    (s.withSprite x y n).getV VF = flagByte (drawPixels s.disp (s.spriteOf x y n)).2 :=
  (State.getV_setFlag _ VF _).trans (if_pos rfl)

theorem State.withSprite_getV_of_ne {k : RegIx} (hk : k ≠ VF) : (s.withSprite x y n).getV k = s.getV k :=
  (State.getV_setFlag _ k _).trans (if_neg hk)

/-- Drawing writes no register but VF, so it moves no sprite whose coordinates are elsewhere. -/
theorem State.withSprite_spriteOf (hx : x ≠ VF) (hy : y ≠ VF) :
    (s.withSprite x y n).spriteOf x y n = s.spriteOf x y n := by
  have hX : (s.withSprite x y n).anchorX x = s.anchorX x := by
    rw [State.anchorX, State.withSprite_getV_of_ne s x y n hx]; rfl
  have hY : (s.withSprite x y n).anchorY y = s.anchorY y := by
    rw [State.anchorY, State.withSprite_getV_of_ne s x y n hy]; rfl
  rw [State.spriteOf, hX, hY]; rfl

end

theorem State.disp_eq_of_cells {s t : State} (h : ∀ X Y, t.cell X Y = s.cell X Y) : t.disp = s.disp :=
  Vector.ext fun Y hY => Vector.ext fun X hX => h ⟨X, hX⟩ ⟨Y, hY⟩

/-! ## What CLS and DRW answer -/

theorem exec_cls (s : State) : exec .cls s = .next { s with disp := blankDisplay } := rfl

section

variable {s : State} (x y : RegIx) {n : Fin 16}

theorem exec_drw_of_fits (h : n.val = 0 ∨ s.i.toNat + n.val ≤ 0x1000) :
    exec (.drw x y n) s = .next (s.withSprite x y n) := by
  have hfits : s.blockFault n.val = none := (firstOutOfRange_eq_none _ _).2 h
  simp only [exec, execDrw, hfits]; rfl

theorem exec_drw_of_exceeds (hn : n.val ≠ 0) (h : 0x1000 < s.i.toNat + n.val) :
    exec (.drw x y n) s = .next (s.raise .memoryOutOfRange (max s.i.toNat 0x1000)) := by
  simp only [exec, execDrw, s.blockFault_of_exceeds hn h]

end

end Sys2Proof.Machine

namespace Sys2Proof.Claims

open Sys2Proof Sys2Proof.Machine

/-- Settles O51: the loop over the sprite's cells, which are distinct and are those of `spriteHits`, or the fault of
its range check. -/
theorem drwTogglesExactlyTheSpriteCells : Obligations.DrwTogglesExactlyTheSpriteCells := by
  intro x y n s
  have hflag := s.withSprite_getV_VF x y n
  have hcollision := s.collision_iff x y n
  refine ⟨fun hfits => ⟨_, exec_drw_of_fits x y hfits, rfl, fun X Y => ?_, fun hon => ?_, fun hoff => ?_,
    fun _ hk => s.withSprite_getV_of_ne x y n hk⟩, exec_drw_of_exceeds x y⟩
  · rw [← s.mem_spriteOf, s.withSprite_cell]
    exact ⟨fun hhit => if_pos hhit, fun hmiss => if_neg hmiss⟩
  · exact hflag.trans (congrArg flagByte (hcollision.2 hon))
  · exact hflag.trans (congrArg flagByte (Bool.eq_false_of_not_eq_true (mt hcollision.1 hoff)))

/-- Settles O52: both draws toggle the same cells, so each cell is toggled twice or not at all. -/
theorem drawingTwiceRestoresTheDisplay : Obligations.DrawingTwiceRestoresTheDisplay := by
  intro x y n s t hx hy hfits ht
  rw [exec_drw_of_fits x y (.inr hfits)] at ht
  cases ht
  refine ⟨_, exec_drw_of_fits x y (.inr hfits), State.disp_eq_of_cells fun X Y => ?_⟩
  rw [State.withSprite_cell, State.withSprite_spriteOf s x y n hx hy, State.withSprite_cell]
  by_cases hhit : (X, Y) ∈ s.spriteOf x y n
  · rw [if_pos hhit, if_pos hhit, Bool.not_not]
  · rw [if_neg hhit, if_neg hhit]

/-- Settles O50: the cleared display, with every other field as it was. -/
theorem clsTurnsEveryCellOff : Obligations.ClsTurnsEveryCellOff := fun s =>
  ⟨_, exec_cls s, rfl, blankDisplay_get⟩

end Sys2Proof.Claims

/-! PROOFS. The key and timer statements (43_keys_timers.md): the key a register names or does not name, the lowest
pressed key, and what the key and timer instructions answer. -/

namespace Sys2Proof.Machine

open Sys2Proof Sys2Proof.Claims

/-! ## Which key: the one a byte names, and the lowest pressed one -/

theorem keyOperand_of_val_eq {k : Fin 16} {b : Byte} (h : k.val = b.toNat) : keyOperand b = some k := by
  have hb : b.toNat < 16 := h ▸ k.isLt
  rw [keyOperand, dif_pos hb]
  exact congrArg some (Fin.ext h.symm)

theorem keyOperand_of_gt {b : Byte} (h : 0xF < b.toNat) : keyOperand b = none :=
  dif_neg (by omega)

section

variable {s : State}

theorem State.lowestKey_eq_none (h : ∀ k, s.keyDown k = false) : s.lowestKey = none := by
  rcases s.lowestKey_cases with ⟨k, _, hk, _⟩ | ⟨hnone, _⟩
  · rw [h k] at hk; cases hk
  · exact hnone

/-- A pressed key with no lower one pressed is the lowest: the key found can be neither below nor above it. -/
theorem State.lowestKey_eq_some {k : Fin 16} (hk : s.keyDown k = true) (hlow : ∀ j, j < k → s.keyDown j = false) :
    s.lowestKey = some k := by
  rcases s.lowestKey_cases with ⟨k', hfound, hk', hlow'⟩ | ⟨_, hnone⟩
  · have hle : k ≤ k' := le_of_not_gt fun hlt => by rw [hlow k' hlt] at hk'; cases hk'
    have hge : k' ≤ k := le_of_not_gt fun hlt => by rw [hlow' k hlt] at hk; cases hk
    rw [hfound, le_antisymm hge hle]
  · rw [hnone k] at hk; cases hk

end

/-! ## What each instruction answers -/

section

variable {s : State} {x : RegIx} {k : Fin 16}

theorem exec_skp_of_key (h : keyOperand (s.getV x) = some k) : exec (.skp x) s = .next (s.skipIf (s.keyDown k)) := by
  simp only [exec, execSkp, h]

theorem exec_sknp_of_key (h : keyOperand (s.getV x) = some k) :
    exec (.sknp x) s = .next (s.skipIf (!s.keyDown k)) := by
  simp only [exec, execSknp, h]

theorem exec_skp_of_no_key (h : keyOperand (s.getV x) = none) :
    exec (.skp x) s = .next (s.raise .badKeyIndex (s.getV x).toNat) := by
  simp only [exec, execSkp, h]

theorem exec_sknp_of_no_key (h : keyOperand (s.getV x) = none) :
    exec (.sknp x) s = .next (s.raise .badKeyIndex (s.getV x).toNat) := by
  simp only [exec, execSknp, h]

theorem exec_ldK_of_key (x : RegIx) (h : s.lowestKey = some k) :
    exec (.ldK x) s = .next (s.setV x (BitVec.ofNat 8 k.val)) := by
  simp only [exec, execLdK, h]

end

section

variable (x : RegIx) (s : State)

theorem exec_ldXDT : exec (.ldXDT x) s = .next (s.setV x s.dt) := rfl

theorem exec_ldDT : exec (.ldDT x) s = .next (s.setDT (s.getV x)) := rfl

theorem exec_ldST : exec (.ldST x) s = .next (s.setST (s.getV x)) := rfl

end

end Sys2Proof.Machine

namespace Sys2Proof.Claims

open Sys2Proof Sys2Proof.Machine

/-- Settles O53: a register up to 0xF names its key, whose level decides the skip; a larger one names none. -/
theorem keySkips : Obligations.KeySkips := by
  refine fun x s => ⟨fun k hk => ?_, fun hbad => ?_⟩
  · have hkey := keyOperand_of_val_eq hk
    exact ⟨(exec_skp_of_key hkey).trans (congrArg _ (s.skipIf_of_iff Iff.rfl)),
      (exec_sknp_of_key hkey).trans (congrArg _ (s.skipIf_of_iff (Bool.not_eq_true' _).to_iff))⟩
  · have hnone := keyOperand_of_gt hbad
    exact ⟨exec_skp_of_no_key hnone, exec_sknp_of_no_key hnone⟩

/-- Settles O54: the pressed key with no lower one pressed is the one found, and none is found where none is down. -/
theorem keyWaitTakesTheLowestKeyOrReplays : Obligations.KeyWaitTakesTheLowestKeyOrReplays := fun x _ =>
  ⟨fun _ hk hlow => ⟨_, exec_ldK_of_key x (State.lowestKey_eq_some hk hlow), writesRegister_setV⟩,
    fun hup => exec_ldK_of_no_key x (State.lowestKey_eq_none hup)⟩

/-- Settles O56: one register written, or one timer. -/
theorem timerMoves : Obligations.TimerMoves := fun x s =>
  ⟨⟨_, exec_ldXDT x s, writesRegister_setV⟩, exec_ldDT x s, exec_ldST x s⟩

end Sys2Proof.Claims

/-! PROOFS. The memory transfer statements (44_memory_transfer.md): what a stored block reads as, the states that LD B
and the block transfers leave where their block exists, and the fault they raise where it does not. -/

namespace Sys2Proof.Machine

open Sys2Proof Sys2Proof.Claims

/-! ## The bytes of a stored block -/

section

variable (s : State) (a : Nat)

theorem State.readByte_writeBytes_inside {ws : List Byte} {k : Nat} (h : k < ws.length) :
    (s.writeBytes a ws).readByte (a + k) = ws[k] := by
  rw [State.readByte_writeBytes, dif_pos ⟨Nat.le_add_right a k, by omega⟩]
  simp only [Nat.add_sub_cancel_left]

/-- The digits of a byte, stored and read back as numbers (R190). -/
theorem State.readByte_writeBytes_bcdDigits (b : Byte) {k : Nat} (h : k < 3) :
    ((s.writeBytes a (bcdDigits b)).readByte (a + k)).toNat =
      [b.toNat / 100, b.toNat / 10 % 10, b.toNat % 10][k] := by
  have hlength : k < (bcdDigits b).length := h
  rw [State.readByte_writeBytes_inside s a hlength]
  simp only [← bcdDigits_toNat, List.getElem_map]

end

/-! ## The states the block transfers leave -/

/-- The state `LD [I], Vx` leaves where its block exists (R191). -/
def State.withBlockStored (s : State) (x : RegIx) : State :=
  (s.writeBytes s.base (s.regsUpTo x)).setI (s.indexAfterTransfer x)

/-- The state `LD Vx, [I]` leaves where its block exists (R192). -/
def State.withBlockLoaded (s : State) (x : RegIx) : State :=
  { s with v := s.regsFromMemory x }.setI (s.indexAfterTransfer x)

section

variable (s : State) {x k : RegIx}

theorem State.withBlockStored_readByte_inside (hk : k ≤ x) :
    (s.withBlockStored x).readByte (s.i.toNat + k.val) = s.getV k := by
  have hlength : k.val < (s.regsUpTo x).length := by rw [State.regsUpTo_length]; exact Nat.lt_succ_of_le hk
  rw [State.withBlockStored, State.readByte_setI]
  exact (s.readByte_writeBytes_inside _ hlength).trans (s.regsUpTo_get x k hlength)

theorem State.withBlockStored_readByte_outside {a : Nat} (ha : a < s.i.toNat ∨ s.i.toNat + x.val < a) :
    (s.withBlockStored x).readByte a = s.readByte a := by
  have houtside : ¬ (s.i.toNat ≤ a ∧ a < s.i.toNat + (s.regsUpTo x).length) := by
    rw [State.regsUpTo_length]; omega
  rw [State.withBlockStored, State.readByte_setI]
  exact State.readByte_writeBytes_outside houtside

theorem State.withBlockLoaded_getV_of_le (hk : k ≤ x) :
    (s.withBlockLoaded x).getV k = s.readByte (s.i.toNat + k.val) :=
  (s.regsFromMemory_get x k).trans (if_pos hk)

theorem State.withBlockLoaded_getV_of_lt (hk : x < k) : (s.withBlockLoaded x).getV k = s.getV k :=
  (s.regsFromMemory_get x k).trans (if_neg (not_le_of_gt hk))

/-- A load reads back what a store left at the same I, whatever the registers hold by then (95_test_vectors.md L1.2). -/
theorem State.withBlockStored_then_withBlockLoaded_getV (between : Vector Byte 16)
    (hi : (s.withBlockStored x).i = s.i) (hk : k ≤ x) :
    ({ s.withBlockStored x with v := between }.withBlockLoaded x).getV k = s.getV k := by
  rw [State.withBlockLoaded_getV_of_le _ hk]
  show (s.withBlockStored x).readByte ((s.withBlockStored x).i.toNat + k.val) = s.getV k
  rw [hi, s.withBlockStored_readByte_inside hk]

end

/-! ## What each instruction answers -/

section

variable {s : State} (x : RegIx)

theorem exec_ldB_of_fits (h : s.i.toNat + 2 ≤ 0xFFF) :
    exec (.ldB x) s = .next (s.writeBytes s.i.toNat (bcdDigits (s.getV x))) := by
  have hfits : s.blockFault 3 = none := State.blockFault_of_fits s (by omega)
  simp only [exec, execLdB, hfits, State.base]

theorem exec_ldB_of_exceeds (h : 0xFFF < s.i.toNat + 2) :
    exec (.ldB x) s = .next (s.raise .memoryOutOfRange (max s.i.toNat 0x1000)) := by
  simp only [exec, execLdB, s.blockFault_of_exceeds (n := 3) (by decide) (by omega)]

variable {x}

theorem exec_ldMemX_of_fits (h : s.i.toNat + x.val ≤ 0xFFF) :
    exec (.ldMemX x) s = .next (s.withBlockStored x) := by
  have hfits : s.blockFault (x.val + 1) = none := State.blockFault_of_fits s (by omega)
  simp only [exec, execLdMemX, hfits, State.withBlockStored]

theorem exec_ldMemX_of_exceeds (h : 0xFFF < s.i.toNat + x.val) :
    exec (.ldMemX x) s = .next (s.raise .memoryOutOfRange (max s.i.toNat 0x1000)) := by
  simp only [exec, execLdMemX, s.blockFault_of_exceeds (Nat.succ_ne_zero x.val) (by omega)]

theorem exec_ldXMem_of_fits (h : s.i.toNat + x.val ≤ 0xFFF) :
    exec (.ldXMem x) s = .next (s.withBlockLoaded x) := by
  have hfits : s.blockFault (x.val + 1) = none := State.blockFault_of_fits s (by omega)
  simp only [exec, execLdXMem, hfits, State.withBlockLoaded]

theorem exec_ldXMem_of_exceeds (h : 0xFFF < s.i.toNat + x.val) :
    exec (.ldXMem x) s = .next (s.raise .memoryOutOfRange (max s.i.toNat 0x1000)) := by
  simp only [exec, execLdXMem, s.blockFault_of_exceeds (Nat.succ_ne_zero x.val) (by omega)]

end

end Sys2Proof.Machine

namespace Sys2Proof.Claims

open Sys2Proof Sys2Proof.Machine

/-- Settles O57: the digits are one stored block of three bytes, or its range check fails. -/
theorem bcdStoresThreeDigits : Obligations.BcdStoresThreeDigits := by
  refine fun x s => ⟨fun hfits => ⟨_, exec_ldB_of_fits x hfits, rfl, ?_⟩, exec_ldB_of_exceeds x⟩
  have hdigit {k : Nat} (hk : k < 3) := s.readByte_writeBytes_bcdDigits s.i.toNat (s.getV x) hk
  refine ⟨hdigit (k := 0) (by decide), hdigit (k := 1) (by decide), hdigit (k := 2) (by decide), fun a ha => ?_⟩
  have houtside : ¬ (s.i.toNat ≤ a ∧ a < s.i.toNat + 3) := by omega
  exact State.readByte_writeBytes_outside houtside

/-- Settles O58: the registers are one stored block, or its range check fails. -/
theorem blockStoreCopiesRegisters : Obligations.BlockStoreCopiesRegisters := fun x s =>
  ⟨fun hfits => ⟨_, exec_ldMemX_of_fits hfits, rfl, fun _ => s.withBlockStored_readByte_inside,
    fun _ => s.withBlockStored_readByte_outside, s.indexAfterTransfer_toNat x⟩, exec_ldMemX_of_exceeds⟩

/-- Settles O59: the registers up to Vx are the bytes of one block, or its range check fails. -/
theorem blockLoadCopiesMemory : Obligations.BlockLoadCopiesMemory := fun x s =>
  ⟨fun hfits => ⟨_, exec_ldXMem_of_fits hfits, rfl, fun _ => s.withBlockLoaded_getV_of_le,
    fun _ => s.withBlockLoaded_getV_of_lt, s.indexAfterTransfer_toNat x⟩, exec_ldXMem_of_exceeds⟩

/-- Settles O60: I does not move, so the load reads the block that the store wrote. -/
theorem storeThenLoadRestoresRegisters : Obligations.StoreThenLoadRestoresRegisters := by
  intro x s t between hquirk hfits ht
  rw [exec_ldMemX_of_fits hfits] at ht
  cases ht
  have hq : ¬ s.config.loadStoreQuirk = true := ne_true_of_eq_false hquirk
  have hi : (s.withBlockStored x).i = s.i := State.indexAfterTransfer_of_no_quirk x hq
  have hfits' : (s.withBlockStored x).i.toNat + x.val ≤ 0xFFF := by rwa [hi]
  refine ⟨_, exec_ldXMem_of_fits hfits', ?_, fun k hk => s.withBlockStored_then_withBlockLoaded_getV between hi hk⟩
  exact (State.indexAfterTransfer_of_no_quirk (s := { s.withBlockStored x with v := between }) x hq).trans hi

end Sys2Proof.Claims

/-! PROOFS. The statements about faults and the host's operations (60_exceptions.md): a fault writes the record alone;
what each operation answers; no operation, and so no sequence of them, breaks the invariant of the machine. -/

namespace Sys2Proof.Machine

open Sys2Proof Sys2Proof.Claims

/-! ## What each host operation answers -/

section

variable {s : State}

theorem hostCall_reinit (s : State) : hostCall .reinit s = some (s.reinit, .nothing) := rfl

theorem hostCall_setKey (s : State) (k : Fin 16) (pressed : Bool) :
    hostCall (.setKey k pressed) s = some (s.setKey k pressed, .nothing) := rfl

theorem hostCall_displayBuffer (s : State) : hostCall .displayBuffer s = some (s, .cells s.displayBuffer) := rfl

theorem hostCall_soundTimer (s : State) : hostCall .soundTimer s = some (s, .timer s.st) := rfl

/-- An image of at most MAX_PROGRAM bytes is stored from 0x200 (R243). -/
theorem hostCall_loadProgram_of_fits {image : List Byte} (h : image.length ≤ maxProgram) :
    hostCall (.loadProgram image) s = some (s.writeBytes programBase image, .ok) := by
  simp only [hostCall, State.loadProgram, if_neg (Nat.not_lt.2 h)]

/-- A longer image is refused, with nothing written (R212, R243). -/
theorem hostCall_loadProgram_of_exceeds {image : List Byte} (h : maxProgram < image.length) :
    hostCall (.loadProgram image) s = some (s, .loadError) := by
  simp only [hostCall, State.loadProgram, if_pos h]

/-- `cycle()` is the step, with its fault as the reply (R223). -/
theorem hostCall_cycle {t : State} (h : step s = .next t) : hostCall .cycle s = some (t, cycleReply t) := by
  simp only [hostCall, h]

theorem hostCall_tick_of_external (h : s.config.timerCoupling = .external) :
    hostCall .tick s = some (s.tick, .nothing) := by
  simp only [hostCall, State.hostTick, h, Option.map_some]

theorem hostCall_tick_of_perCycle (h : s.config.timerCoupling = .perCycle) : hostCall .tick s = none := by
  simp only [hostCall, State.hostTick, h, Option.map_none]

end

/-! ## The cells as the host sees them -/

/-- The buffer as a vector of 32 rows of 64 bytes, laid end to end (R226). -/
theorem State.displayBuffer_eq (s : State) :
    s.displayBuffer = (s.disp.flatMap fun row => row.map cellByte).toList := by
  simp [State.displayBuffer, Vector.flatMap, Vector.toList, Array.toList_flatMap]

theorem State.displayBuffer_length (s : State) : s.displayBuffer.length = 2048 := by
  rw [State.displayBuffer_eq, Vector.length_toList]

/-- Cell (x, y) is at index y · 64 + x (R226). -/
theorem State.displayBuffer_get (s : State) (x : Fin 64) (y : Fin 32) :
    s.displayBuffer[y.val * 64 + x.val]? = some (cellByte (s.cell x y)) := by
  have hi : y.val * 64 + x.val < 32 * 64 := by omega
  have hrow : (y.val * 64 + x.val) / 64 = y.val := by omega
  have hcol : (y.val * 64 + x.val) % 64 = x.val := by omega
  rw [State.displayBuffer_eq, Vector.getElem?_toList, Vector.getElem?_eq_getElem hi, Vector.getElem_flatMap]
  simp only [hrow, hcol, Vector.getElem_map]
  rfl

/-! ## The host's operations and the invariant of the machine -/

section

variable {s : State}

/-- The invariant says nothing of the key latch and of the draw counter. -/
theorem State.Inv.with_key_draws (hinv : s.Inv) (keys : Vector Bool 16) (drawn : Nat) :
    { s with key := keys, draws := drawn }.Inv where
  memWf := hinv.memWf
  stackLow := hinv.stackLow
  pcLow := hinv.pcLow
  faultPc := hinv.faultPc

/-- Bytes stored inside memory keep the invariant. -/
theorem State.Inv.writeBytes (hinv : s.Inv) {a : Nat} {ws : List Byte} (h : a + ws.length ≤ 4096) :
    (s.writeBytes a ws).Inv where
  memWf := Memory.writeBytes_wf s.config ws s.mem a hinv.memWf h
  stackLow := hinv.stackLow
  pcLow := hinv.pcLow
  faultPc := hinv.faultPc

/-- No host operation breaks the invariant: a re-initialization ends in a constructed state, `cycle()` is a step, an
image that is not refused fits below 0x1000, and the others write no state that the invariant speaks of. -/
theorem State.Inv.hostCall_keeps {op : HostOp} {t : State} {reply : HostReply} (hinv : s.Inv)
    (h : hostCall op s = some (t, reply)) : t.Inv := by
  cases op with
  | reinit =>
    rw [hostCall_reinit] at h; cases h
    exact (constructedMachineHasTheInvariant s.config).with_key_draws s.key s.draws
  | loadProgram image =>
    rcases Nat.lt_or_ge maxProgram image.length with hlong | hfits
    · rw [hostCall_loadProgram_of_exceeds hlong] at h; cases h; exact hinv
    · rw [hostCall_loadProgram_of_fits hfits] at h; cases h
      have hend : programBase + image.length ≤ 4096 := by simp only [maxProgram, programBase] at hfits ⊢; omega
      exact hinv.writeBytes hend
  | cycle =>
    obtain ⟨u, hstep⟩ := step_next s
    rw [hostCall_cycle hstep] at h; cases h
    exact stepKeepsTheMachineInvariant s _ hinv hstep
  | tick =>
    cases hc : s.config.timerCoupling with
    | perCycle => rw [hostCall_tick_of_perCycle hc] at h; cases h
    | external => rw [hostCall_tick_of_external hc] at h; cases h; exact hinv.tick
  | setKey k pressed => rw [hostCall_setKey] at h; cases h; exact hinv.with_key_draws _ _
  | displayBuffer => rw [hostCall_displayBuffer] at h; cases h; exact hinv
  | soundTimer => rw [hostCall_soundTimer] at h; cases h; exact hinv

end

/-- A run of host operations is its first operation and a run of the others. -/
theorem hostRun_cons {op : HostOp} {ops : List HostOp} {s t : State} (h : hostRun (op :: ops) s = some t) :
    ∃ u reply, hostCall op s = some (u, reply) ∧ hostRun ops u = some t := by
  rw [hostRun] at h
  split at h
  case h_1 u reply hcall => exact ⟨u, reply, hcall, h⟩
  case h_2 => cases h

/-- What every host operation keeps, every sequence of them keeps (R228). -/
theorem hostRun_keeps {P : State → Prop}
    (hcall : ∀ {op s t reply}, P s → hostCall op s = some (t, reply) → P t) {ops : List HostOp} {s t : State}
    (hs : P s) (h : hostRun ops s = some t) : P t := by
  induction ops generalizing s with
  | nil => cases h; exact hs
  | cons op ops ih =>
    obtain ⟨u, _, hop, hrest⟩ := hostRun_cons h
    exact ih (hcall hs hop) hrest

end Sys2Proof.Machine

namespace Sys2Proof.Claims

open Sys2Proof Sys2Proof.Machine

/-- Settles O24: one operation keeps the invariant, so a sequence of them does. -/
theorem hostOperationsKeepTheMachineInvariant : Obligations.HostOperationsKeepTheMachineInvariant :=
  fun _ _ _ hinv h => hostRun_keeps State.Inv.hostCall_keeps hinv h

/-- Settles O10: a cycle that did not retire wrote the record alone, and every record names the instruction's pc. -/
theorem faultsArePrecise : Obligations.FaultsArePrecise := by
  intro s t r hs h hr
  have hpc : r.pc = s.pc := (onlyTheseFaultsAreTaken s t r hs h hr).1
  rcases step_retires_or_faults hs h with hnone | ⟨r', rfl⟩
  · rw [hnone] at hr; cases hr
  · cases hr; exact ⟨rfl, hpc⟩

/-- Settles O32: the buffer's length and its bytes. -/
theorem displayBufferIsRowMajor : Obligations.DisplayBufferIsRowMajor :=
  fun s => ⟨_, hostCall_displayBuffer s, s.displayBuffer_length, s.displayBuffer_get⟩

/-- Settles O27: a re-initialization is the constructed state with the key latch and the draw counter put back. -/
theorem initializeResetsAllButTheKeys : Obligations.InitializeResetsAllButTheKeys := hostCall_reinit

/-- Settles O30: one entry of the latch reads as set, and the others as before. -/
theorem setKeyWritesOneKey : Obligations.SetKeyWritesOneKey :=
  fun s k pressed => ⟨_, hostCall_setKey s k pressed, rfl, by simp, fun j hj => by simp [hj]⟩

/-- Settles O31: the tick by the coupling; the sound timer is ST. -/
theorem hostTickAndSoundTimer : Obligations.HostTickAndSoundTimer :=
  fun s => ⟨hostCall_tick_of_external, hostCall_tick_of_perCycle, hostCall_soundTimer s⟩

end Sys2Proof.Claims

/-! PROOFS. The reset and hazard statements (70_reset_and_hazards.md): what a spinning cycle leaves, how a run ends,
what a loaded image reads as, and the launch state of a claim. -/

namespace Sys2Proof.Machine

open Sys2Proof Sys2Proof.Claims

/-! ## The spin -/

section

variable {s t : State}

theorem State.spins_iff (s : State) :
    s.spins = true ↔ s.halted = false ∧ ∃ nnn, addrOperand nnn = s.pc ∧ s.nextInstr = some (.jp nnn) := by
  unfold State.spins
  constructor
  · intro h
    split at h
    case h_1 nnn hi =>
      rw [Bool.and_eq_true, Bool.not_eq_true', beq_iff_eq] at h
      exact ⟨h.1, nnn, h.2, hi⟩
    case h_2 => cases h
  · rintro ⟨hh, nnn, htarget, hi⟩
    rw [hi]; simp [hh, htarget]

theorem State.fault_of_spins (h : s.spins = true) : s.fault = none := s.not_halted_iff.1 (s.spins_iff.1 h).1

/-- Whether a cycle spins is read off memory, pc and the fault record; the opcode register and the timers play no
part in it. -/
theorem State.spins_with_opcode_timers (s : State) (op : Word) (dt st : Byte) :
    { s with opcode := op, dt := dt, st := st }.spins = s.spins := rfl

/-- A spinning cycle jumps back over its own advance of pc and retires: it sets the opcode register, and ticks under
`per_cycle` (R83, R86, R103). -/
theorem step_of_spins (h : s.spins = true) (hstep : step s = .next t) :
    t = if s.config.timerCoupling = .perCycle then { s with opcode := wordAtPc s }.tick
      else { s with opcode := wordAtPc s } := by
  obtain ⟨_, nnn, htarget, hi⟩ := s.spins_iff.1 h
  obtain ⟨u, he, hend⟩ := step_of_nextInstr (State.fault_of_spins h) hi
  rw [exec_jp, htarget] at he
  cases he
  have hnone : ((s.beginExecute (wordAtPc s)).setPc s.pc).fault = none := State.fault_of_spins h
  rw [State.endCycle_of_retires hnone] at hend
  cases hstep.symm.trans hend
  rfl

theorem step_of_spins_frame (h : s.spins = true) (hstep : step s = .next t) :
    t = { s with opcode := t.opcode, dt := t.dt, st := t.st } := by
  rw [step_of_spins h hstep]; split <;> rfl

theorem step_keeps_spins (h : s.spins = true) (hstep : step s = .next t) : t.spins = true := by
  rw [step_of_spins_frame h hstep, State.spins_with_opcode_timers]; exact h

/-! ## How a run ends -/

theorem runToEnd_of_halted (fuel : Nat) (hh : s.halted = true) : runToEnd fuel s = (.fault, s) := by
  cases fuel <;> simp [runToEnd, hh]

theorem runToEnd_zero_of_running (hh : s.halted = false) : runToEnd 0 s = (.fuel, s) := by
  simp [runToEnd, hh]

theorem runToEnd_succ_of_spins (fuel : Nat) (h : s.spins = true) (hstep : step s = .next t) :
    runToEnd (fuel + 1) s = (.spin, t) := by
  simp [runToEnd, (s.spins_iff.1 h).1, hstep, h]

theorem runToEnd_succ_of_running (fuel : Nat) (hh : s.halted = false) (h : s.spins = false)
    (hstep : step s = .next t) : runToEnd (fuel + 1) s = runToEnd fuel t := by
  simp [runToEnd, hh, hstep, h]

end

/-! ## Loading an image, and the launch state -/

theorem State.loadProgram_of_fits (s : State) {image : List Byte} (h : image.length ≤ maxProgram) :
    s.loadProgram image = some (s.writeBytes programBase image) := if_neg (Nat.not_lt.2 h)

theorem State.loadProgram_of_exceeds (s : State) {image : List Byte} (h : maxProgram < image.length) :
    s.loadProgram image = none := if_pos h

end Sys2Proof.Machine

namespace Sys2Proof.Claims

open Sys2Proof Sys2Proof.Machine

/-- Settles O18: the spinning cycle retires with the opcode register set, and what may follow is the tick. -/
theorem spinRepeats : Obligations.SpinRepeats := by
  refine fun s t h hstep => ⟨step_keeps_spins h hstep, step_of_spins_frame h hstep, fun hexternal => ?_⟩
  have hnotick : ¬ s.config.timerCoupling = .perCycle := by rw [hexternal]; decide
  rw [step_of_spins h hstep, if_neg hnotick]
  exact ⟨rfl, rfl⟩

/-- Settles O19, by induction on the fuel: a run ends at once in a halted core, in one without fuel, or after a cycle
that spun, whose final state spins again and so holds no fault; any other cycle leaves a run with less fuel. -/
theorem runEndTellsTheFinalState : Obligations.RunEndTellsTheFinalState := by
  intro fuel
  induction fuel with
  | zero =>
    intro s
    cases hh : s.halted with
    | true => rw [runToEnd_of_halted 0 hh]; simpa using s.halted_iff.1 hh
    | false => rw [runToEnd_zero_of_running hh]; simpa using s.not_halted_iff.1 hh
  | succ fuel ih =>
    intro s
    obtain ⟨t, hstep⟩ := step_next s
    cases hh : s.halted with
    | true => rw [runToEnd_of_halted _ hh]; simpa using s.halted_iff.1 hh
    | false =>
      cases hspin : s.spins with
      | true =>
        have ht : t.spins = true := step_keeps_spins hspin hstep
        rw [runToEnd_succ_of_spins fuel hspin hstep]
        simp [State.fault_of_spins ht, ht]
      | false => rw [runToEnd_succ_of_running fuel hh hspin hstep]; exact ih t

/-- Settles O28: the image is one stored block from 0x200, or it is refused. -/
theorem loadProgramCopiesOrRefuses : Obligations.LoadProgramCopiesOrRefuses := by
  refine fun s image => ⟨fun hlong => hostCall_loadProgram_of_exceeds hlong, fun hfits =>
    ⟨_, hostCall_loadProgram_of_fits hfits, rfl, fun j hj => s.readByte_writeBytes_inside _ hj, fun a ha => ?_⟩⟩
  have houtside : ¬ (0x200 ≤ a ∧ a < 0x200 + image.length) := by omega
  exact State.readByte_writeBytes_outside houtside

/-- Settles O29: the image is one block stored in a constructed state with the key latch put in; the premises are
that state's reset values. -/
theorem launchStateMeetsItsPremises : Obligations.LaunchStateMeetsItsPremises := by
  refine fun c keys image => ⟨fun hfits => ⟨_, State.loadProgram_of_fits _ hfits, ?_⟩, State.loadProgram_of_exceeds _⟩
  exact ⟨rfl, rfl, rfl, State.construct_cell c, rfl, rfl, State.construct_getV c, rfl, rfl, rfl,
    fun j hj => State.readByte_writeBytes_inside _ _ hj⟩

end Sys2Proof.Claims
